-- ==== Sys2Proof/Word.lean ====
section
/-! DEFINITION. The machine's widths (00_scope.md R4): bytes, words, addresses and register numbers. -/

namespace Sys2Proof

/-- An 8-bit value: a memory cell, a V register or a timer (R20, R27, R50). -/
abbrev Byte := BitVec 8

/-- A 16-bit value: an instruction word or the index pointer I (R23, R70). -/
abbrev Word := BitVec 16

/-- A 12-bit value: the program counter, a stack entry or the field `nnn` (R24, R26, R71). -/
abbrev Addr := BitVec 12

/-- A register number: V0 to VF (R20). -/
abbrev Reg := Fin 16

/-- VF, the register that doubles as the flag output (R21). -/
abbrev VF : Reg := 15

end Sys2Proof
end

