-- ==== Sys2Proof/Syntax.lean ====
section
/-! DEFINITION. The 34 instructions: one constructor per row of 30_encoding.md R74, in the table's order. -/

namespace Sys2Proof

/-- An instruction with its decoded fields (R71, R74). -/
inductive Instr
  /-- `00E0` CLS (R161). -/
  | cls
  /-- `00EE` RET (R103). -/
  | ret
  /-- `1nnn` JP nnn (R101). -/
  | jp (nnn : Addr)
  /-- `2nnn` CALL nnn (R102). -/
  | call (nnn : Addr)
  /-- `3xnn` SE Vx, nn (R105). -/
  | seImm (x : Reg) (nn : Byte)
  /-- `4xnn` SNE Vx, nn (R106). -/
  | sneImm (x : Reg) (nn : Byte)
  /-- `5xy0` SE Vx, Vy (R107). -/
  | seReg (x y : Reg)
  /-- `6xnn` LD Vx, nn (R121). -/
  | ldImm (x : Reg) (nn : Byte)
  /-- `7xnn` ADD Vx, nn (R122). -/
  | addImm (x : Reg) (nn : Byte)
  /-- `8xy0` LD Vx, Vy (R123). -/
  | ldReg (x y : Reg)
  /-- `8xy1` OR Vx, Vy (R124). -/
  | orReg (x y : Reg)
  /-- `8xy2` AND Vx, Vy (R125). -/
  | andReg (x y : Reg)
  /-- `8xy3` XOR Vx, Vy (R126). -/
  | xorReg (x y : Reg)
  /-- `8xy4` ADD Vx, Vy (R127). -/
  | addReg (x y : Reg)
  /-- `8xy5` SUB Vx, Vy (R128). -/
  | sub (x y : Reg)
  /-- `8xy6` SHR Vx, Vy (R129). -/
  | shr (x y : Reg)
  /-- `8xy7` SUBN Vx, Vy (R130). -/
  | subn (x y : Reg)
  /-- `8xyE` SHL Vx, Vy (R131). -/
  | shl (x y : Reg)
  /-- `9xy0` SNE Vx, Vy (R108). -/
  | sneReg (x y : Reg)
  /-- `Annn` LD I, nnn (R140). -/
  | ldI (nnn : Addr)
  /-- `Bnnn` JP V0, nnn (R104). The row has two overlapping fields, `nnn` = w[11:0] and `x` = w[11:8]. -/
  | jpV0 (nnn : Addr) (x : Reg)
  /-- `Cxnn` RND Vx, nn (R141). -/
  | rnd (x : Reg) (nn : Byte)
  /-- `Dxyn` DRW Vx, Vy, n (R163). -/
  | drw (x y : Reg) (n : BitVec 4)
  /-- `Ex9E` SKP Vx (R181). -/
  | skp (x : Reg)
  /-- `ExA1` SKNP Vx (R182). -/
  | sknp (x : Reg)
  /-- `Fx07` LD Vx, DT (R184). -/
  | ldVxDt (x : Reg)
  /-- `Fx0A` LD Vx, K (R183). -/
  | ldVxK (x : Reg)
  /-- `Fx15` LD DT, Vx (R185). -/
  | ldDtVx (x : Reg)
  /-- `Fx18` LD ST, Vx (R186). -/
  | ldStVx (x : Reg)
  /-- `Fx1E` ADD I, Vx (R142). -/
  | addI (x : Reg)
  /-- `Fx29` LD F, Vx (R143). -/
  | ldF (x : Reg)
  /-- `Fx33` LD B, Vx (R201). -/
  | ldB (x : Reg)
  /-- `Fx55` LD [I], Vx (R202). -/
  | ldMemVx (x : Reg)
  /-- `Fx65` LD Vx, [I] (R203). -/
  | ldVxMem (x : Reg)
deriving DecidableEq, Repr

end Sys2Proof
end

