-- ==== Sys2Proof/Config.lean ====
section
/-! DEFINITION. The configuration of a run (10_state.md R31, R32) and the free value RAND (R33). -/

namespace Sys2Proof

/-- What `8xy6` and `8xyE` shift (R31). -/
inductive ShiftMode
  /-- The value of Vy. -/
  | legacy
  /-- Vx itself; y is ignored. -/
  | inPlace
deriving DecidableEq, Repr

/-- The base register of `Bnnn` (R31). -/
inductive JmpOffsetMode
  /-- V0. -/
  | v0
  /-- Vx, x = w[11:8]. -/
  | vx
deriving DecidableEq, Repr

/-- What `Cxnn` masks (R31). -/
inductive RandomMode
  /-- The RAND input. -/
  | random
  /-- Constant zero. -/
  | zero
deriving DecidableEq, Repr

/-- Whether `Fx1E` writes VF on overflow past 0xFFF (R31). -/
inductive AddIndexMode
  | setVf
  | noVf
deriving DecidableEq, Repr

/-- Whether `Fx55` and `Fx65` add x + 1 to I (R31). -/
inductive StoreLoadMode
  | increment
  | unchanged
deriving DecidableEq, Repr

/-- The configuration of a run: five quirks (R31) and `allow_unknown` (R32), bound at RESET (R255). -/
structure Config where
  shiftMode     : ShiftMode
  jmpOffsetMode : JmpOffsetMode
  randomMode    : RandomMode
  addIndexMode  : AddIndexMode
  storeLoadMode : StoreLoadMode
  allowUnknown  : Bool
deriving DecidableEq, Repr

/-- The configuration of the conventions of 95_test_vectors.md.
DESIGN CHOICE (log entry 1): R31 gives no default, so this value is only what `State.reset` carries. -/
def Config.conventions : Config where
  shiftMode := .legacy
  jmpOffsetMode := .v0
  randomMode := .random
  addIndexMode := .setVf
  storeLoadMode := .increment
  allowUnknown := false

/-- RAND of the CYCLE that makes draw number `n`: a free value under no law (R33, D13).
DESIGN CHOICE (log entry 2): an opaque sequence, so a proof that uses it holds for every value. -/
opaque Config.freeRand : Nat → Byte

end Sys2Proof
end

