-- ==== Sys2Proof/Machine/State.lean ====
section
/-! DEFINITION. The machine's state as plain data (10_state.md), the host's events (00_scope.md R7), statuses and faults
(60_exceptions.md R220), and the state after RESET (R38). -/

namespace Sys2Proof.Machine

/-- MEM as the cells that differ from its reset contents: addresses below 4096, strictly rising (R50; see
Machine/Memory.lean for the canonical form and for what an unlisted address reads as). -/
abbrev Memory := List Host.Cell

/-- The two faults of R220. The machine goes on after either (R226, R227), so `exec` and `step` never answer an outcome
`fault`: a fault is recorded in the next state, in `status` and `firstFault` (log entry 3). -/
inductive Fault
  /-- The word `w` fetched at `pc` matches no row of the dispatch table (R221). Raised by the dispatcher
  (`unknownOpcode`). Safe: the state is left as the spec says and the status tells the host. -/
  | unknownOpcode (w : Word) (pc : Addr)
  /-- `00EE` at `pc` with an empty stack (R222). Raised by `execRet`. Safe, as above. -/
  | stackUnderflow (pc : Addr)
deriving DecidableEq, Repr

/-- Why the model gives an event no meaning. -/
inductive Refusal
  /-- An instruction with no meaning yet. Raised by `exec`'s refused arms, of which there are none. Safe. -/
  | notModelled (mnemonic : String)
  /-- RESET with a FONT of other than 80 bytes (R252, D29). Raised by the event RESET. Safe. -/
  | resetFontSize
  /-- RESET with a program image of more than 3584 bytes (R253, D29). Raised by the event RESET. Safe. -/
  | resetImageTooLong
  /-- RESET with an `inject_ram` address above 0xFFF or value above 255 (R254, D29). Raised by the event RESET. Safe. -/
  | resetInjectRange
  /-- RESET with an `inject_ram` that names an address twice, so is no mapping (R254). Raised by the event RESET. Safe.
  DESIGN CHOICE (log entry 8). -/
  | resetInjectRepeats
deriving DecidableEq, Repr

/-- What a CYCLE returns (R220). -/
inductive Status
  /-- One instruction was executed completely. -/
  | ok
  /-- The word at PC is `Fx0A` and no key flag is set; nothing changed. -/
  | waitKey
  /-- UNKNOWN_OPCODE or STACK_UNDERFLOW, with the information R220 says is reported. -/
  | fault (f : Fault)
deriving DecidableEq, Repr

/-- The arguments of RESET (R250 to R255). `inject_ram` holds (address, value) pairs, unchecked until RESET. -/
structure ResetArgs where
  font   : List Byte
  image  : List Byte
  inject : List (Nat × Nat)
  cfg    : Config
deriving DecidableEq, Repr

/-- The events a host issues (R7). -/
inductive Event
  /-- RESET(FONT, image, inject_ram), with the configuration bound at the same time. -/
  | reset (args : ResetArgs)
  /-- KEYS(k): bit `i` of `k` is the flag of key `i`. -/
  | keys (k : BitVec 16)
  /-- CYCLE(RAND): with the byte the host sends, or with the next free value. -/
  | cycle (rand : Option Byte)
  /-- TICK: one invocation of the Timer Subsystem. -/
  | tick
deriving DecidableEq, Repr

/-- Everything the spec gives the machine (R9), and after it the model's own fields. -/
structure State where
  /-- MEM (R50). -/
  mem        : Memory
  /-- V0 to VF (R20). -/
  v          : Vector Byte 16
  /-- The index pointer I (R23). -/
  i          : Word
  /-- The program counter (R24). -/
  pc         : Addr
  /-- The call stack, the most recent return address last (R26). -/
  stack      : List Addr
  /-- The delay timer (R27). -/
  dt         : Byte
  /-- The sound timer (R27). -/
  st         : Byte
  /-- The framebuffer: row `r` from the top, column `c` of a row is its bit `c` (R28; log entry 10). -/
  fb         : Vector (BitVec 64) 32
  /-- The keypad snapshot: bit `i` is `K[i]` (R29). -/
  keys       : BitVec 16
  /-- The configuration bound at RESET (R31, R32, R255; log entry 1). -/
  cfg        : Config
  /-- RAND, the input of the current CYCLE (R33; log entry 2). -/
  rand       : Byte
  /-- The model's own: how many free RAND values have been drawn (log entry 2). -/
  draws      : Nat
  /-- The model's own: the output of the last CYCLE (R220; log entry 3). -/
  status     : Status
  /-- The model's own: the sticky first fault that R36 and R227 allow a model to keep (log entry 3). -/
  firstFault : Option Fault
  /-- The model's own: events the host has issued and the machine has not taken yet, oldest first (log entry 4). -/
  inbox      : List Event
  /-- The model's own: the event pattern the host repeats when the inbox is empty (R8, U16; log entry 4). -/
  schedule   : List Event
deriving DecidableEq, Repr

/-- The state after RESET with the default FONT, an empty image and an empty `inject_ram` (R38): memory lists nothing, for
an unlisted address reads as these reset contents. The last seven fields are the model's (log entries 1 to 4). -/
def State.reset : State where
  mem := []
  v := Vector.replicate 16 0
  i := 0
  pc := 0x200
  stack := []
  dt := 0
  st := 0
  fb := Vector.replicate 32 0
  keys := 0
  cfg := Config.conventions
  rand := 0
  draws := 0
  status := .ok
  firstFault := none
  inbox := []
  schedule := []

end Sys2Proof.Machine
end

