-- ==== Sys2Proof/Machine/Memory.lean ====
section
/-! DEFINITION. MEM (20_memory.md R50, R51, R52): what an unlisted cell reads as, the canonical form, one-byte read and write. -/

namespace Sys2Proof.Machine

/-- The default FONT, glyphs 0 to 7 (R252). PRESUMED by the spec itself, its G8 (log entry 5). -/
def fontLow : List Byte :=
  [0xF0, 0x90, 0x90, 0x90, 0xF0] ++ [0x20, 0x60, 0x20, 0x20, 0x70] ++
  [0xF0, 0x10, 0xF0, 0x80, 0xF0] ++ [0xF0, 0x10, 0xF0, 0x10, 0xF0] ++
  [0x90, 0x90, 0xF0, 0x10, 0x10] ++ [0xF0, 0x80, 0xF0, 0x10, 0xF0] ++
  [0xF0, 0x80, 0xF0, 0x90, 0xF0] ++ [0xF0, 0x10, 0x20, 0x40, 0x40]

/-- The default FONT, glyphs 8 to F (R252). -/
def fontHigh : List Byte :=
  [0xF0, 0x90, 0xF0, 0x90, 0xF0] ++ [0xF0, 0x90, 0xF0, 0x10, 0xF0] ++
  [0xF0, 0x90, 0xF0, 0x90, 0x90] ++ [0xE0, 0x90, 0xE0, 0x90, 0xE0] ++
  [0xF0, 0x80, 0x80, 0x80, 0xF0] ++ [0xE0, 0x90, 0x90, 0x90, 0xE0] ++
  [0xF0, 0x80, 0xF0, 0x80, 0xF0] ++ [0xF0, 0x80, 0xF0, 0x80, 0x80]

/-- The default FONT: 16 glyphs of 5 bytes (R252). -/
def defaultFont : List Byte := fontLow ++ fontHigh

/-- What an unlisted address reads as: the reset contents, the default FONT at 0x000 to 0x04F and 0 above (R38, R51). -/
def background (a : Nat) : Byte := defaultFont.getD a 0

/-- The cell at `a`. -/
def Memory.read : Memory → Nat → Byte
  | [], a => background a
  | (b, v) :: m, a => if a = b then v else Memory.read m a

/-- The entry for the cell `a`, if it differs from what an unlisted cell reads as. -/
def Memory.cell (a : Nat) (v : Byte) : Memory := if v = background a then [] else [(a, v)]

/-- The cell `a` becomes `v` and no other changes (R52); the canonical form is kept. -/
def Memory.write : Memory → Nat → Byte → Memory
  | [], a, v => Memory.cell a v
  | (b, w) :: m, a, v =>
    if a < b then Memory.cell a v ++ (b, w) :: m
    else if a = b then Memory.cell a v ++ m
    else (b, w) :: Memory.write m a v

/-- Every entry lies at or above `lo`, below 4096, in strictly rising order, and differs from the unlisted value. -/
def Memory.wfFrom : Nat → Memory → Bool
  | _, [] => true
  | lo, (a, v) :: m => decide (lo ≤ a) && decide (a < 4096) && decide (v ≠ background a) && Memory.wfFrom (a + 1) m

/-- The canonical form: equal memories are equal lists. -/
def Memory.wf (m : Memory) : Bool := Memory.wfFrom 0 m

end Sys2Proof.Machine
end

