-- ==== Sys2Proof/Machine/Ops.lean ====
section
/-! DEFINITION. The named operations of 00_scope.md R11 over memory, registers, PC and stack, the ways a CYCLE ends, and the
taking of a fault (60_exceptions.md R221, R222, R226). -/

namespace Sys2Proof.Machine

/-- The outcome type of every meaning. -/
abbrev Result := Host.Outcome State Fault Refusal

/-- `MemRead(addr, 1)`: the cell `addr mod 4096` (R52). -/
def State.memRead (s : State) (addr : Nat) : Byte := s.mem.read (addr % 4096)

/-- `MemWrite(addr, 1, v)`: the cell `addr mod 4096` becomes `v` (R52). -/
def State.memWrite (s : State) (addr : Nat) (v : Byte) : State := { s with mem := s.mem.write (addr % 4096) v }

/-- One-byte writes at consecutive addresses in ascending order (R55). -/
def State.memWriteList (s : State) (addr : Nat) : List Byte → State
  | [] => s
  | b :: bs => (s.memWrite addr b).memWriteList (addr + 1) bs

/-- The read of `V[r]` (R11). -/
def State.readV (s : State) (r : Reg) : Byte := s.v[r]

/-- `V[r] <- b` (R11, R22: a register holds 8 bits). -/
def State.writeV (s : State) (r : Reg) (b : Byte) : State := { s with v := s.v.set r b }

/-- `I <- w` (R11). -/
def State.setIndex (s : State) (w : Word) : State := { s with i := w }

/-- `DT <- b` (R11). -/
def State.setDelay (s : State) (b : Byte) : State := { s with dt := b }

/-- `ST <- b` (R11). -/
def State.setSound (s : State) (b : Byte) : State := { s with st := b }

/-- The framebuffer as a whole (R28). -/
def State.setFb (s : State) (fb : Vector (BitVec 64) 32) : State := { s with fb := fb }

/-- `push(a)`: append to the end of STACK (R11). -/
def State.push (s : State) (a : Addr) : State := { s with stack := s.stack ++ [a] }

/-- STACK without its last entry, for `pop()` (R11). -/
def State.dropTop (s : State) : State := { s with stack := s.stack.dropLast }

/-- `next`: the address of the following instruction, modulo 4096 (R11). -/
def State.nextPc (s : State) : Addr := s.pc + 2

/-- `skip`: the address after the following instruction, modulo 4096 (R11). -/
def State.skipPc (s : State) : Addr := s.pc + 4

/-- The word at PC: high byte at PC, low byte at PC + 1, both modulo 4096 (R53, R54). -/
def State.fetchWord (s : State) : Word := wordOfBytes (s.memRead s.pc.toNat) (s.memRead (s.pc.toNat + 1))

/-- PC becomes `target` and the CYCLE's status is OK (R220). -/
def State.endAt (s : State) (target : Addr) : State := { s with pc := target, status := .ok }

/-- End the CYCLE with status OK and PC at `target`. -/
def jumpTo (target : Addr) (s : State) : Result := .next (s.endAt target)

/-- End the CYCLE with status OK and `pc <- next` (R12). -/
def advance (s : State) : Result := jumpTo s.nextPc s

/-- End the CYCLE with status OK, at `skip` when the condition holds and at `next` otherwise (R100). -/
def skipIf (c : Bool) (s : State) : Result := jumpTo (if c then s.skipPc else s.nextPc) s

/-- End the CYCLE with status WAIT_KEY: nothing changes, PC still points at this word (R183, R36). -/
def waitForKey (s : State) : Result := .next { s with status := .waitKey }

/-- Record a fault: the CYCLE's status, and the sticky first fault (R36, R220). -/
def State.raise (s : State) (f : Fault) : State :=
  { s with status := .fault f, firstFault := s.firstFault.or (some f) }

/-- Taking a fault, in place of a trap entry: nothing is saved, no mode changes, control goes nowhere; the CYCLE ends with
the status (R222, R226). Continuation needs no return: the next CYCLE fetches at PC again (R227). -/
def takeFault (f : Fault) (s : State) : Result := .next (s.raise f)

/-- `raise UnknownOpcode(w)`: the word is stepped over when `allow_unknown`, else PC stays; nothing else changes (R221). -/
def unknownOpcode (w : Word) (s : State) : Result :=
  takeFault (.unknownOpcode w s.pc) (if s.cfg.allowUnknown then { s with pc := s.nextPc } else s)

/-- The output `sound_active` (R231). -/
def State.soundActive (s : State) : Bool := s.st != 0

/-- `FB[r][c]`, false outside the screen (R28, R160). -/
def State.pixel (s : State) (r c : Nat) : Bool := if h : r < 32 then s.fb[r].getLsbD c else false

/-- The status code of R220. -/
def Status.code : Status → Nat
  | .ok => 0
  | .waitKey => 1
  | .fault (.unknownOpcode _ _) => 2
  | .fault (.stackUnderflow _) => 3

end Sys2Proof.Machine
end

