-- ==== Sys2Proof/Machine/Flags.lean ====
section
/-! DEFINITION. What VF receives as a flag (10_state.md R21), each flag computed from operand values read first (41_alu.md R120). -/

namespace Sys2Proof.Machine

/-- A flag as the byte VF holds: 1 or 0 (R21). -/
def flagByte (c : Bool) : Byte := if c then 1 else 0

/-- Carry: the unmasked sum exceeds 255 (R127). -/
def carryOut (a b : Byte) : Bool := decide (a.toNat + b.toNat > 255)

/-- The subtract flag: the minuend is strictly greater (R128, R130, R132; 90_conflicts.md C2). -/
def strictlyGreater (minuend subtrahend : Byte) : Bool := decide (minuend.toNat > subtrahend.toNat)

/-- The bit a right shift moves out: bit 0 (R129). -/
def shiftedOutRight (t : Byte) : Bool := t.getLsbD 0

/-- The bit a left shift moves out: bit 7 (R131). -/
def shiftedOutLeft (t : Byte) : Bool := t.getLsbD 7

/-- Overflow of the index add: the exact sum is past 0xFFF (R142). -/
def indexOverflow (i : Word) (b : Byte) : Bool := decide (i.toNat + b.toNat > 0xFFF)

/-- Write a result to Vx and then a flag to VF, so that the flag remains when x = 0xF (R120). -/
def State.writeResultThenFlag (s : State) (x : Reg) (result : Byte) (flag : Bool) : State :=
  (s.writeV x result).writeV VF (flagByte flag)

end Sys2Proof.Machine
end

