-- ==== Sys2Proof/Machine/Operands.lean ====
section
/-! DEFINITION. The operand forms that are more than a field of the word: quirk-selected registers (10_state.md R31), index
addresses, key numbers, font addresses, the decimal digits and the sprite row. -/

namespace Sys2Proof.Machine

/-- The value `8xy6` and `8xyE` shift: Vy under `legacy`, Vx under `in_place` (R129, R131). -/
def State.shiftSource (s : State) (x y : Reg) : Byte :=
  match s.cfg.shiftMode with
  | .legacy => s.readV y
  | .inPlace => s.readV x

/-- The base of `Bnnn`: V0 or Vx by `jmp_offset_mode` (R104). -/
def State.jumpBase (s : State) (x : Reg) : Byte :=
  match s.cfg.jmpOffsetMode with
  | .v0 => s.readV 0
  | .vx => s.readV x

/-- The byte `Cxnn` masks: RAND or 0 by `random_mode` (R141). -/
def State.randomByte (s : State) : Byte :=
  match s.cfg.randomMode with
  | .random => s.rand
  | .zero => 0

/-- `I + k`, exact; the access reduces it modulo 4096 (R52, R56). -/
def State.indexAddr (s : State) (k : Nat) : Nat := s.i.toNat + k

/-- I after a block store or load of V0 to Vx: `(I + x + 1) mod 65536` under `increment`, else I (R202, R203). -/
def State.indexAfterBlock (s : State) (x : Reg) : Word :=
  match s.cfg.storeLoadMode with
  | .increment => s.i + BitVec.ofNat 16 (x.val + 1)
  | .unchanged => s.i

/-- The key selected by Vx: its low four bits (R180). -/
def State.keyNumber (s : State) (x : Reg) : Nat := (s.readV x).toNat % 16

/-- `K[k]` (R29). -/
def State.keyDown (s : State) (k : Nat) : Bool := s.keys.getLsbD k

/-- The least `k` at or above `from` among `n` key numbers with `K[k]` = 1 (R183). -/
def leastKeyFrom (keys : BitVec 16) (start : Nat) : Nat → Option Nat
  | 0 => none
  | n + 1 => if keys.getLsbD start then some start else leastKeyFrom keys (start + 1) n

/-- The least pressed key, if any (R183). -/
def State.leastKey (s : State) : Option Nat := leastKeyFrom s.keys 0 16

/-- The address of the glyph of `b`: `b * 5`, not reduced to a nibble (R143). -/
def glyphAddr (b : Byte) : Word := BitVec.ofNat 16 (b.toNat * 5)

/-- Hundreds, tens and ones of `b` (R201). -/
def decimalDigits (b : Byte) : List Byte :=
  [BitVec.ofNat 8 (b.toNat / 100), BitVec.ofNat 8 (b.toNat / 10 % 10), BitVec.ofNat 8 (b.toNat % 10)]

/-- V0 to Vx, V0 first (R202). -/
def State.blockOfRegs (s : State) (x : Reg) : List Byte := s.v.toList.take (x.val + 1)

/-- The registers after loading V0 to Vx from `MEM[I..]` (R203). -/
def State.regsFromBlock (s : State) (x : Reg) : Vector Byte 16 :=
  Vector.ofFn fun r : Fin 16 => if r ≤ x then s.memRead (s.indexAddr r.val) else s.readV r

/-- V0 to Vx loaded from `MEM[I..]`; memory and I are only read (R203). -/
def State.loadBlock (s : State) (x : Reg) : State := { s with v := s.regsFromBlock x }

/-- A sprite byte as a framebuffer row, its bit 7 at column `px`; columns above 63 are clipped (R160, R162). -/
def spriteRow (px : Nat) (b : Byte) : BitVec 64 := b.reverse.setWidth 64 <<< px

end Sys2Proof.Machine
end

