-- ==== Sys2Proof/Machine/Alu.lean ====
section
/-! DEFINITION. Register load, add, logic, subtract and shift (41_alu.md). Results are 8-bit, so they wrap modulo 256 (R132). -/

namespace Sys2Proof.Machine

/-- `6xnn` LD Vx, nn (R121). -/
def execLdImm (x : Reg) (nn : Byte) (s : State) : Result := advance (s.writeV x nn)

/-- `7xnn` ADD Vx, nn (R122): no flag. -/
def execAddImm (x : Reg) (nn : Byte) (s : State) : Result := advance (s.writeV x (s.readV x + nn))

/-- `8xy0` LD Vx, Vy (R123). -/
def execLdReg (x y : Reg) (s : State) : Result := advance (s.writeV x (s.readV y))

/-- `8xy1` OR (R124): VF unchanged. -/
def execOr (x y : Reg) (s : State) : Result := advance (s.writeV x (s.readV x ||| s.readV y))

/-- `8xy2` AND (R125): VF unchanged. -/
def execAnd (x y : Reg) (s : State) : Result := advance (s.writeV x (s.readV x &&& s.readV y))

/-- `8xy3` XOR (R126): VF unchanged. -/
def execXor (x y : Reg) (s : State) : Result := advance (s.writeV x (s.readV x ^^^ s.readV y))

/-- `8xy4` ADD Vx, Vy (R127): VF = carry. -/
def execAddReg (x y : Reg) (s : State) : Result :=
  advance (s.writeResultThenFlag x (s.readV x + s.readV y) (carryOut (s.readV x) (s.readV y)))

/-- `8xy5` SUB (R128): VF = 1 exactly when Vx > Vy. -/
def execSub (x y : Reg) (s : State) : Result :=
  advance (s.writeResultThenFlag x (s.readV x - s.readV y) (strictlyGreater (s.readV x) (s.readV y)))

/-- `8xy6` SHR (R129): VF = the bit shifted out. -/
def execShr (x y : Reg) (s : State) : Result :=
  advance (s.writeResultThenFlag x (s.shiftSource x y >>> 1) (shiftedOutRight (s.shiftSource x y)))

/-- `8xy7` SUBN (R130): VF = 1 exactly when Vy > Vx. -/
def execSubn (x y : Reg) (s : State) : Result :=
  advance (s.writeResultThenFlag x (s.readV y - s.readV x) (strictlyGreater (s.readV y) (s.readV x)))

/-- `8xyE` SHL (R131): VF = the bit shifted out. -/
def execShl (x y : Reg) (s : State) : Result :=
  advance (s.writeResultThenFlag x (s.shiftSource x y <<< 1) (shiftedOutLeft (s.shiftSource x y)))

end Sys2Proof.Machine
end

