-- ==== Sys2Proof/Machine/Control.lean ====
section
/-! DEFINITION. Control flow (40_control_flow.md): jump, call, return, jump with offset, skips. -/

namespace Sys2Proof.Machine

/-- `1nnn` JP (R101). -/
def execJp (nnn : Addr) (s : State) : Result := jumpTo nnn s

/-- `2nnn` CALL (R102): push the address of the following instruction, then jump. -/
def execCall (nnn : Addr) (s : State) : Result := jumpTo nnn (s.push s.nextPc)

/-- `00EE` RET (R103): pop into PC, or StackUnderflow with nothing changed (R222). -/
def execRet (s : State) : Result :=
  match s.stack.getLast? with
  | none => takeFault (.stackUnderflow s.pc) s
  | some a => jumpTo a s.dropTop

/-- `Bnnn` JP V0 (R104): `nnn` plus the base register, modulo 4096. -/
def execJpV0 (nnn : Addr) (x : Reg) (s : State) : Result := jumpTo (nnn + (s.jumpBase x).setWidth 12) s

/-- `3xnn` SE Vx, nn (R105). -/
def execSeImm (x : Reg) (nn : Byte) (s : State) : Result := skipIf (s.readV x == nn) s

/-- `4xnn` SNE Vx, nn (R106). -/
def execSneImm (x : Reg) (nn : Byte) (s : State) : Result := skipIf (s.readV x != nn) s

/-- `5xy0` SE Vx, Vy (R107). -/
def execSeReg (x y : Reg) (s : State) : Result := skipIf (s.readV x == s.readV y) s

/-- `9xy0` SNE Vx, Vy (R108). -/
def execSneReg (x y : Reg) (s : State) : Result := skipIf (s.readV x != s.readV y) s

end Sys2Proof.Machine
end

