-- ==== Sys2Proof/Machine/Display.lean ====
section
/-! DEFINITION. Display: clear and draw (43_display.md). -/

namespace Sys2Proof.Machine

/-- `00E0` CLS (R161). -/
def execCls (s : State) : Result := advance (s.setFb (Vector.replicate 32 0))

/-- The loop of R163 over the sprite rows from `k` on, `m` of them left: row `py + k` is XORed with the byte at `I + k`
placed at column `px`; the loop stops below row 31. The answer is the framebuffer and whether a set pixel was cleared. -/
def State.drawRows (s : State) (px py : Nat) : Nat → Nat → Vector (BitVec 64) 32 → Bool → Vector (BitVec 64) 32 × Bool
  | 0, _, fb, hit => (fb, hit)
  | m + 1, k, fb, hit =>
    if h : py + k < 32 then
      s.drawRows px py m (k + 1)
        (fb.set (py + k) (fb[py + k] ^^^ spriteRow px (s.memRead (s.indexAddr k))))
        (hit || (fb[py + k] &&& spriteRow px (s.memRead (s.indexAddr k))) != 0)
    else (fb, hit)

/-- The column of the sprite's left edge (R163). -/
def State.spriteColumn (s : State) (x : Reg) : Nat := (s.readV x).toNat % 64

/-- The row of the sprite's top edge (R163). -/
def State.spriteTop (s : State) (y : Reg) : Nat := (s.readV y).toNat % 32

/-- The framebuffer and collision flag after drawing `n` rows at (Vx, Vy) (R163). -/
def State.drawSprite (s : State) (x y : Reg) (n : BitVec 4) : Vector (BitVec 64) 32 × Bool :=
  s.drawRows (s.spriteColumn x) (s.spriteTop y) n.toNat 0 s.fb false

/-- `Dxyn` DRW (R163): VF is written after Vx and Vy are read. -/
def execDrw (x y : Reg) (n : BitVec 4) (s : State) : Result :=
  advance ((s.setFb (s.drawSprite x y n).1).writeV VF (flagByte (s.drawSprite x y n).2))

end Sys2Proof.Machine
end

