-- ==== Sys2Proof/Machine/Index.lean ====
section
/-! DEFINITION. Index pointer, font address and random (42_index_and_random.md). -/

namespace Sys2Proof.Machine

/-- `Annn` LD I, nnn (R140). -/
def execLdI (nnn : Addr) (s : State) : Result := advance (s.setIndex (nnn.setWidth 16))

/-- `Cxnn` RND (R141). -/
def execRnd (x : Reg) (nn : Byte) (s : State) : Result := advance (s.writeV x (s.randomByte &&& nn))

/-- VF after an index add that overflowed: written with 1 under `set_vf`, untouched under `no_vf` (R142). -/
def State.flagIndexOverflow (s : State) : State :=
  match s.cfg.addIndexMode with
  | .setVf => s.writeV VF 1
  | .noVf => s

/-- `Fx1E` ADD I, Vx (R142): past 0xFFF the sum wraps to 12 bits. -/
def execAddI (x : Reg) (s : State) : Result :=
  if indexOverflow s.i (s.readV x) then
    advance (s.setIndex (BitVec.ofNat 16 ((s.i.toNat + (s.readV x).toNat) % 0x1000))).flagIndexOverflow
  else
    advance (s.setIndex (s.i + (s.readV x).setWidth 16))

/-- `Fx29` LD F, Vx (R143). -/
def execLdF (x : Reg) (s : State) : Result := advance (s.setIndex (glyphAddr (s.readV x)))

end Sys2Proof.Machine
end

