-- ==== Sys2Proof/Machine/Keypad.lean ====
section
/-! DEFINITION. Keypad skips, wait-for-key and timer access (44_keypad_and_timers.md). -/

namespace Sys2Proof.Machine

/-- `Ex9E` SKP (R181). -/
def execSkp (x : Reg) (s : State) : Result := skipIf (s.keyDown (s.keyNumber x)) s

/-- `ExA1` SKNP (R182). -/
def execSknp (x : Reg) (s : State) : Result := skipIf (!s.keyDown (s.keyNumber x)) s

/-- `Fx0A` LD Vx, K (R183): the least pressed key, or WAIT_KEY with nothing changed. -/
def execLdVxK (x : Reg) (s : State) : Result :=
  match s.leastKey with
  | none => waitForKey s
  | some k => advance (s.writeV x (BitVec.ofNat 8 k))

/-- `Fx07` LD Vx, DT (R184). -/
def execLdVxDt (x : Reg) (s : State) : Result := advance (s.writeV x s.dt)

/-- `Fx15` LD DT, Vx (R185). -/
def execLdDtVx (x : Reg) (s : State) : Result := advance (s.setDelay (s.readV x))

/-- `Fx18` LD ST, Vx (R186). -/
def execLdStVx (x : Reg) (s : State) : Result := advance (s.setSound (s.readV x))

end Sys2Proof.Machine
end

