-- ==== Sys2Proof/Machine/MemoryOps.lean ====
section
/-! DEFINITION. BCD store, register block store and load (45_memory_ops.md). -/

namespace Sys2Proof.Machine

/-- `Fx33` LD B, Vx (R201): hundreds at I, tens at I + 1, ones at I + 2. -/
def execLdB (x : Reg) (s : State) : Result :=
  advance (s.memWriteList (s.indexAddr 0) (decimalDigits (s.readV x)))

/-- `Fx55` LD [I], Vx (R202): V0 to Vx at I upward, then the quirk's increment. -/
def execLdMemVx (x : Reg) (s : State) : Result :=
  advance ((s.memWriteList (s.indexAddr 0) (s.blockOfRegs x)).setIndex (s.indexAfterBlock x))

/-- `Fx65` LD Vx, [I] (R203): V0 to Vx from I upward, then the quirk's increment. -/
def execLdVxMem (x : Reg) (s : State) : Result :=
  advance ((s.loadBlock x).setIndex (s.indexAfterBlock x))

end Sys2Proof.Machine
end

