-- ==== Sys2Proof/Machine/Events.lean ====
section
/-! DEFINITION. The four events of 00_scope.md R7: CYCLE, TICK, KEYS and RESET, which of them comes next, and the outputs the
host reads (10_state.md R34). -/

namespace Sys2Proof.Machine

/-- The dispatcher of a CYCLE: the word at PC is decoded and executed, or is an unknown opcode (R221, R225). -/
def cycle (s : State) : Result :=
  match decodeWord s.fetchWord with
  | .ok i => exec i s
  | .error _ => unknownOpcode s.fetchWord s

/-- RAND of a CYCLE reaches the core: the byte the host sends, or the next free value (R33; log entry 2). -/
def State.latchRand (s : State) : Option Byte → State
  | some r => { s with rand := r }
  | none => { s with rand := Config.freeRand s.draws, draws := s.draws + 1 }

/-- A timer after one TICK: one less, stopping at 0 (R230). -/
def countDown (b : Byte) : Byte := if b = 0 then 0 else b - 1

/-- The event TICK (R230). -/
def State.tick (s : State) : State := { s with dt := countDown s.dt, st := countDown s.st }

/-- The event KEYS: all 16 flags at once (R29). -/
def State.latchKeys (s : State) (k : BitVec 16) : State := { s with keys := k }

/-- Step 1 of RESET: everything zero, PC at 0x200, the configuration bound (R251, R255). What the host holds (`inbox`,
`schedule`) and the count of free values drawn are not the core's and stay (log entry 11). -/
def State.zeroed (s : State) (cfg : Config) : State :=
  { State.reset with cfg := cfg, draws := s.draws, inbox := s.inbox, schedule := s.schedule }

/-- Step 4 of RESET: each pair (a, b) makes `MEM[a]` = b (R254). -/
def State.injectRam (s : State) : List (Nat × Nat) → State
  | [] => s
  | (a, b) :: rest => (s.memWrite a (BitVec.ofNat 8 b)).injectRam rest

/-- Zero memory, then FONT at 0x000, then the image at 0x200, then `inject_ram` (R250 to R254). Reset memory lists nothing
and reads as the default FONT and zero, which a FONT of 80 bytes overwrites whole, so this is what zeroing first gives. -/
def State.loaded (s : State) (a : ResetArgs) : State :=
  (((s.zeroed a.cfg).memWriteList 0x000 a.font).memWriteList 0x200 a.image).injectRam a.inject

/-- Why RESET refuses its arguments, if it does: FONT not 80 bytes, image over 3584 bytes, `inject_ram` out of range or
no mapping (R252, R253, R254). -/
def ResetArgs.problem (a : ResetArgs) : Option Refusal :=
  if a.font.length ≠ 80 then some .resetFontSize
  else if a.image.length > 3584 then some .resetImageTooLong
  else if a.inject.any fun p => decide (p.1 > 0xFFF) || decide (p.2 > 255) then some .resetInjectRange
  else if ¬ (a.inject.map Prod.fst).Nodup then some .resetInjectRepeats
  else none

/-- The event RESET: its arguments are refused before any state is built, or the start-up state results (R250). -/
def resetEvent (a : ResetArgs) (s : State) : Result :=
  match a.problem with
  | some r => .refused r
  | none => .next (s.loaded a)

/-- One event (R5, R7). -/
def applyEvent (e : Event) (s : State) : Result :=
  match e with
  | .reset a => resetEvent a s
  | .keys k => .next (s.latchKeys k)
  | .cycle r => cycle (s.latchRand r)
  | .tick => .next s.tick

/-- The next event and the state without it: the oldest pending event; when none is pending, the first of the host's
pattern, the rest becoming pending; when there is no pattern, a CYCLE (R8, D32; log entry 4). -/
def State.nextEvent (s : State) : Event × State :=
  match s.inbox with
  | e :: rest => (e, { s with inbox := rest })
  | [] =>
    match s.schedule with
    | e :: rest => (e, { s with inbox := rest })
    | [] => (.cycle none, s)

/-- A sequence of events, one after another, up to the first that is refused (R6, R8). -/
def runEvents : List Event → State → Result
  | [], s => .next s
  | e :: es, s =>
    match applyEvent e s with
    | .next t => runEvents es t
    | .fault f => .fault f
    | .refused r => .refused r

/-- One iteration of the reference host: KEYS(k), CYCLE(RAND), TICK (R8). -/
def referenceIteration (k : BitVec 16) (rand : Byte) : List Event := [.keys k, .cycle (some rand), .tick]

/-- What the host can read after every event: R34's list, and K, for the snapshot of R7 is a copy of all state (R9, R13). -/
structure Snapshot where
  fb          : Vector (BitVec 64) 32
  soundActive : Bool
  st          : Byte
  dt          : Byte
  v           : Vector Byte 16
  i           : Word
  pc          : Addr
  stack       : List Addr
  mem         : Memory
  keys        : BitVec 16
  status      : Status
deriving DecidableEq, Repr

/-- The outputs, a copy that leaves the state alone (R34). -/
def State.snapshot (s : State) : Snapshot where
  fb := s.fb
  soundActive := s.soundActive
  st := s.st
  dt := s.dt
  v := s.v
  i := s.i
  pc := s.pc
  stack := s.stack
  mem := s.mem
  keys := s.keys
  status := s.status

/-- The bytes of a word at PC and PC + 1, the high byte first (R53). -/
def State.placeWord (s : State) (w : Word) : State :=
  s.memWriteList s.pc.toNat [highByte w, lowByte w]

/-- The host's next event is a CYCLE. -/
def State.cycleNext (s : State) : State := { s with inbox := .cycle none :: s.inbox }

end Sys2Proof.Machine
end

