-- ==== Sys2Proof/Machine/Step.lean ====
section
/-! DEFINITION. One step is one event (00_scope.md R6), and the placing of one instruction where the next step fetches. -/

namespace Sys2Proof.Machine

/-- One event: the next one, applied (R5, R6). -/
def step (s : State) : Host.Outcome State Fault Refusal :=
  applyEvent s.nextEvent.1 s.nextEvent.2

/-- `s` with a table word stored at PC and a CYCLE as the next event, so that the next step fetches and runs it. -/
def State.withFetchWord (s : State) (nbits w : Nat) : State :=
  (s.placeWord (tableWord nbits w)).cycleNext

end Sys2Proof.Machine
end

