-- ==== Sys2Proof/Safety.lean ====
section
/-! DEFINITION. The terms the claims use: frames, the frame table of 60_exceptions.md R238, sprite pixels, the invariant, and the
end conditions of 70_reset_and_hazards.md R258. -/

namespace Sys2Proof.Machine

/-- A piece of the spec's own state (00_scope.md R9). -/
inductive Part
  | mem | v | i | pc | stack | dt | st | fb | keys
deriving DecidableEq, Repr

/-- The piece is the same before and after; memory and registers by their reads. -/
def Same : Part → State → State → Prop
  | .mem, s, t => ∀ a : Nat, t.memRead a = s.memRead a
  | .v, s, t => ∀ r : Reg, t.readV r = s.readV r
  | .i, s, t => t.i = s.i
  | .pc, s, t => t.pc = s.pc
  | .stack, s, t => t.stack = s.stack
  | .dt, s, t => t.dt = s.dt
  | .st, s, t => t.st = s.st
  | .fb, s, t => t.fb = s.fb
  | .keys, s, t => t.keys = s.keys

/-- What only the host decides is the same: the configuration and the events still to come. -/
def SameHost (s t : State) : Prop := t.cfg = s.cfg ∧ t.inbox = s.inbox ∧ t.schedule = s.schedule

/-- Every piece of state outside `changed` is the same, and so are the host's and RAND (model fields of log entries 1, 2, 4). -/
def Frame (changed : List Part) (s t : State) : Prop :=
  (∀ p, p ∉ changed → Same p s t) ∧ SameHost s t ∧ t.rand = s.rand ∧ t.draws = s.draws

/-- Every register outside `written` is the same. -/
def SameRegs (written : List Reg) (s t : State) : Prop := ∀ r, r ∉ written → t.readV r = s.readV r

/-- The CYCLE returned status OK (R220), which the model keeps in the state (log entry 3). -/
def EndsOk (t : State) : Prop := t.status = .ok

/-- PC moved on by `k`, modulo 4096 (R11). -/
def PcMovedBy (k : Nat) (s t : State) : Prop := t.pc.toNat = (s.pc.toNat + k) % 4096

/-- Every word that the mask and value select decodes to the instruction its fields give (R74). -/
def RowDecodes (mask value : Word) (f : Word → Instr) : Prop :=
  ∀ w : Word, w &&& mask = value → decodeWord w = .ok (f w)

/-- The cell `a` is one of the `len` cells from `base` on, modulo 4096 (R52, R55). -/
def InBlock (base len a : Nat) : Prop := ∃ k, k < len ∧ a % 4096 = (base + k) % 4096

/-- The sprite of `Dxyn` has a 1 at row `r`, column `c` of the screen: row `r` is one of its `n` rows, column `c` one of its 8
columns, and the bit of the byte at I + (r - top) is set, bit 7 leftmost (R160, R163). -/
def SpritePixel (s : State) (x y : Reg) (n : BitVec 4) (r c : Nat) : Prop :=
  s.spriteTop y ≤ r ∧ r < s.spriteTop y + n.toNat ∧ s.spriteColumn x ≤ c ∧ c ≤ s.spriteColumn x + 7 ∧
    (s.memRead (s.indexAddr (r - s.spriteTop y))).getLsbD (7 - (c - s.spriteColumn x)) = true

/-- Which instructions may change a piece of state: the CYCLE column of R238, registers by R20. PC may change in every one;
the three statuses that keep it are stated apart. -/
def instrMayChange : Part → Instr → Bool
  | .mem, i => match i with | .ldB _ | .ldMemVx _ => true | _ => false
  | .v, i =>
    match i with
    | .ldImm _ _ | .addImm _ _ | .ldReg _ _ | .orReg _ _ | .andReg _ _ | .xorReg _ _ | .addReg _ _ | .sub _ _
    | .shr _ _ | .subn _ _ | .shl _ _ | .rnd _ _ | .ldVxDt _ | .ldVxK _ | .ldVxMem _ | .drw _ _ _ | .addI _ => true
    | _ => false
  | .i, i => match i with | .ldI _ | .addI _ | .ldF _ | .ldMemVx _ | .ldVxMem _ => true | _ => false
  | .pc, _ => true
  | .stack, i => match i with | .call _ | .ret => true | _ => false
  | .dt, i => match i with | .ldDtVx _ => true | _ => false
  | .st, i => match i with | .ldStVx _ => true | _ => false
  | .fb, i => match i with | .cls | .drw _ _ _ => true | _ => false
  | .keys, _ => false

/-- The frame table of R238 for CYCLE, TICK and KEYS: the event, at a state, may change the piece. -/
def eventMayChange (p : Part) (e : Event) (s : State) : Bool :=
  match e with
  | .cycle _ =>
    match decodeWord s.fetchWord with
    | .ok i => instrMayChange p i
    | .error _ => p == .pc
  | .tick => p == .dt || p == .st
  | .keys _ => p == .keys
  | .reset _ => true

/-- The event is a RESET. -/
def Event.isReset : Event → Bool
  | .reset _ => true
  | _ => false

/-- The event is a CYCLE. -/
def Event.isCycle : Event → Bool
  | .cycle _ => true
  | _ => false

/-- Memory is in canonical form, and a CYCLE that returned a fault has left it on record (R36, R227). -/
def Inv (s : State) : Prop := s.mem.wf = true ∧ ∀ f, s.status = .fault f → s.firstFault ≠ none

/-- Under `store_load_mode = unchanged` the index pointer never leaves 12 bits (R23). -/
def IndexIn12Bits (s : State) : Prop := s.cfg.storeLoadMode = .unchanged → s.i.toNat ≤ 0xFFF

/-- The next CYCLE faults with `f` and leaves PC where it is (R227, R258 FAULTED). -/
def StandsAtFault (s : State) (f : Fault) : Prop :=
  ((∃ e, decodeWord s.fetchWord = .error e) ∧ s.cfg.allowUnknown = false ∧ f = .unknownOpcode s.fetchWord s.pc) ∨
    (decodeWord s.fetchWord = .ok .ret ∧ s.stack = [] ∧ f = .stackUnderflow s.pc)

/-- FAULTED: the last CYCLE returned a fault and PC still points at the faulting word (R258). -/
def Faulted (s : State) : Prop := ∃ f, s.status = .fault f ∧ StandsAtFault s f

/-- HALTED_LOOP: the word at PC is a jump to itself (R258). -/
def HaltedLoop (s : State) : Prop := decodeWord s.fetchWord = .ok (.jp s.pc)

/-- The program stands at `Fx0A` with no key pressed (R237). -/
def WaitsForKey (s : State) : Prop := (∃ x, decodeWord s.fetchWord = .ok (.ldVxK x)) ∧ s.keys = 0

/-- No fault has been recorded in this run: the premise R227 names for claims about a program. -/
def NoFault (s : State) : Prop := s.firstFault = none

/-- Two configurations agree on the quirk the instruction reads; every other instruction reads none (R31). -/
def quirkAgrees (c d : Config) : Instr → Prop
  | .shr _ _ | .shl _ _ => c.shiftMode = d.shiftMode
  | .jpV0 _ _ => c.jmpOffsetMode = d.jmpOffsetMode
  | .rnd _ _ => c.randomMode = d.randomMode
  | .addI _ => c.addIndexMode = d.addIndexMode
  | .ldMemVx _ | .ldVxMem _ => c.storeLoadMode = d.storeLoadMode
  | _ => True

/-- RESET accepts the arguments (R252, R253, R254). -/
def ResetArgs.ok (a : ResetArgs) : Prop :=
  a.font.length = 80 ∧ a.image.length ≤ 3584 ∧ (∀ p ∈ a.inject, p.1 ≤ 0xFFF ∧ p.2 ≤ 255) ∧
    (a.inject.map Prod.fst).Nodup

end Sys2Proof.Machine
end

