-- ==== Sys2Proof/Certificates/Slice0/Obligations.lean ====
section
/-! DEFINITION. The statements for the provers. A statement about one instruction says that `exec` answers a next state, what
that state holds, and what it leaves unchanged. The fields `cfg`, `rand`, `status`, `firstFault`, `inbox` and `schedule` are how
the model carries the spec's configuration, inputs and outputs (log entries 1 to 4); what a statement says of them holds for
every value of them. A clause `RowDecodes mask value f` is the encoding its rule cites. -/

open Sys2Proof Sys2Proof.Machine

/-! Encoding (30_encoding.md). -/

/-- The 17 words of 95_test_vectors.md section 2.1: twelve decode to the instructions they stand for, five to none. -/
def Obligations.SampleWordsDecode : Prop :=
  decodeWord 0x00E0 = .ok .cls ∧ decodeWord 0x00EE = .ok .ret ∧ decodeWord 0x1ABC = .ok (.jp 0xABC) ∧
  decodeWord 0x3A7F = .ok (.seImm 0xA 0x7F) ∧ decodeWord 0x5AB0 = .ok (.seReg 0xA 0xB) ∧
  decodeWord 0x5AB1 = .error (.unknownOpcode 0x5AB1) ∧ decodeWord 0x8AB6 = .ok (.shr 0xA 0xB) ∧
  decodeWord 0x8ABE = .ok (.shl 0xA 0xB) ∧ decodeWord 0x8AB9 = .error (.unknownOpcode 0x8AB9) ∧
  decodeWord 0xB2F0 = .ok (.jpV0 0x2F0 2) ∧ decodeWord 0xD125 = .ok (.drw 1 2 5) ∧
  decodeWord 0xE59E = .ok (.skp 5) ∧ decodeWord 0xE5A1 = .ok (.sknp 5) ∧
  decodeWord 0xFC65 = .ok (.ldVxMem 0xC) ∧ decodeWord 0xFC66 = .error (.unknownOpcode 0xFC66) ∧
  decodeWord 0x0000 = .error (.unknownOpcode 0x0000) ∧ decodeWord 0xFFFF = .error (.unknownOpcode 0xFFFF)

/-- Every well-formed instruction is read back from its word, with every operand at every value. -/
def Obligations.DecodeOfEncode : Prop :=
  ∀ i : Instr, i.wellFormed = true → decodeWord (encode i) = .ok i

/-- Every word that decodes is the word of the instruction it decodes to, which is well formed: no bit is ignored. -/
def Obligations.EncodeOfDecode : Prop :=
  ∀ (w : Word) (i : Instr), decodeWord w = .ok i → i.wellFormed = true ∧ encode i = w

/-- R71: the fields of a word, and how they overlap. -/
def Obligations.FieldsOfAWord : Prop :=
  ∀ w : Word,
    (fieldOp w).toNat = w.toNat / 4096 ∧ (fieldX w).val = w.toNat / 256 % 16 ∧ (fieldY w).val = w.toNat / 16 % 16 ∧
    (fieldN w).toNat = w.toNat % 16 ∧ (fieldNN w).toNat = w.toNat % 256 ∧ (fieldNNN w).toNat = w.toNat % 4096 ∧
    (fieldNN w).toNat = (fieldY w).val * 16 + (fieldN w).toNat ∧
    (fieldNNN w).toNat = (fieldX w).val * 256 + (fieldNN w).toNat ∧
    w.toNat = (fieldOp w).toNat * 4096 + (fieldNNN w).toNat

/-- R74: 34 rows; a word decodes exactly when a row selects it, and then to an instruction of that row. -/
def Obligations.DecodeFollowsDispatchTable : Prop :=
  opcodeTable.length = 34 ∧
  (∀ w : Word, ∀ r ∈ opcodeTable, r.selects w = true → ∃ i, decodeWord w = .ok i ∧ i.mnemonic = r.mnemonic) ∧
  (∀ w : Word, (∀ r ∈ opcodeTable, r.selects w = false) → decodeWord w = .error (.unknownOpcode w))

/-- R75: no word selects two rows. -/
def Obligations.RowsDoNotOverlap : Prop :=
  ∀ w : Word, ∀ a ∈ opcodeTable, ∀ b ∈ opcodeTable, a.selects w = true → b.selects w = true → a = b

/-- R76's list of the unknown words (not its counts). The strict masks are the spec's own decision D28. -/
def Obligations.UnknownWordsAreThoseListed : Prop :=
  ∀ w : Word, decodeWord w = .error (.unknownOpcode w) ↔
    (fieldOp w = 0x0#4 ∧ fieldNNN w ≠ 0x0E0#12 ∧ fieldNNN w ≠ 0x0EE#12) ∨
    (fieldOp w = 0x5#4 ∧ fieldN w ≠ 0#4) ∨
    (fieldOp w = 0x8#4 ∧ fieldN w ∈ [0x8#4, 0x9#4, 0xA#4, 0xB#4, 0xC#4, 0xD#4, 0xF#4]) ∨
    (fieldOp w = 0x9#4 ∧ fieldN w ≠ 0#4) ∨
    (fieldOp w = 0xE#4 ∧ fieldNN w ∉ [0x9E#8, 0xA1#8]) ∨
    (fieldOp w = 0xF#4 ∧ fieldNN w ∉ [0x07#8, 0x0A#8, 0x15#8, 0x18#8, 0x1E#8, 0x29#8, 0x33#8, 0x55#8, 0x65#8])

/-! Memory and fetch (20_memory.md). -/

/-- R52: a read takes `addr mod 4096`; a write changes that cell and no other, and nothing but memory. The wrap is the spec's own
decision D2. Canonical memory (log entry 5) is the premise; `StepKeepsInv` shows that every step keeps it. -/
def Obligations.MemoryReadsWhatWasWritten : Prop :=
  (∀ (s : State) (a : Nat), s.memRead a = s.memRead (a % 4096)) ∧
  ∀ (s : State) (a : Nat) (v : Byte), s.mem.wf = true →
    (s.memWrite a v).memRead a = v ∧
    (∀ b, b % 4096 ≠ a % 4096 → (s.memWrite a v).memRead b = s.memRead b) ∧
    Frame [.mem] s (s.memWrite a v) ∧ (s.memWrite a v).mem.wf = true

/-- Memories in canonical form that read the same at every address are equal lists (the model's own form, log entry 5). -/
def Obligations.CanonicalMemoryIsUnique : Prop :=
  ∀ m m' : Memory, m.wf = true → m'.wf = true → (∀ a, a < 4096 → m.read a = m'.read a) → m = m'

/-- The fetched word is the byte at PC times 256 plus the byte at PC + 1 (R53), both modulo 4096, whatever the parity of PC: the
spec's own decisions D4 and D2. -/
def Obligations.FetchIsBigEndianAndWraps : Prop :=
  ∀ s : State, s.fetchWord.toNat =
    (s.memRead s.pc.toNat).toNat * 256 + (s.memRead ((s.pc.toNat + 1) % 4096)).toNat

/-- A byte stored in either half of the word at PC changes exactly that half of the next fetch (R53, R59); the wrap at the top of
memory is the spec's own decision D2. -/
def Obligations.StoreIsSeenByTheNextFetch : Prop :=
  ∀ (s : State) (a : Nat) (v : Byte), s.mem.wf = true →
    (a % 4096 = s.pc.toNat →
      highByte (s.memWrite a v).fetchWord = v ∧ lowByte (s.memWrite a v).fetchWord = lowByte s.fetchWord) ∧
    (a % 4096 = (s.pc.toNat + 1) % 4096 →
      lowByte (s.memWrite a v).fetchWord = v ∧ highByte (s.memWrite a v).fetchWord = highByte s.fetchWord) ∧
    (a % 4096 ≠ s.pc.toNat → a % 4096 ≠ (s.pc.toNat + 1) % 4096 → (s.memWrite a v).fetchWord = s.fetchWord)

/-! Control flow (40_control_flow.md). -/

/-- R101: a jump goes to `nnn`. -/
def Obligations.JumpGoesToItsTarget : Prop :=
  RowDecodes 0xF000 0x1000 (fun w => .jp (fieldNNN w)) ∧
  ∀ (s : State) (nnn : Addr), ∃ t, exec (.jp nnn) s = .next t ∧ t.pc = nnn ∧ EndsOk t ∧ Frame [.pc] s t

/-- R102: a call goes to `nnn` and appends to STACK the address of the following instruction. That this address is what is
pushed, and its wrap at the top of memory, are the spec's own decisions D5 and D1. -/
def Obligations.CallPushesTheReturnAddress : Prop :=
  RowDecodes 0xF000 0x2000 (fun w => .call (fieldNNN w)) ∧
  ∀ (s : State) (nnn : Addr), ∃ t a, exec (.call nnn) s = .next t ∧ t.pc = nnn ∧ t.stack = s.stack ++ [a] ∧
    a.toNat = (s.pc.toNat + 2) % 4096 ∧ EndsOk t ∧ Frame [.pc, .stack] s t

/-- R103: the last entry is popped into PC; with an empty stack nothing changes and the status is STACK_UNDERFLOW. -/
def Obligations.ReturnPopsOrUnderflows : Prop :=
  RowDecodes 0xFFFF 0x00EE (fun _ => .ret) ∧
  (∀ (s : State) (rest : List Addr) (a : Addr), s.stack = rest ++ [a] →
    ∃ t, exec .ret s = .next t ∧ t.pc = a ∧ t.stack = rest ∧ EndsOk t ∧ Frame [.pc, .stack] s t) ∧
  (∀ s : State, s.stack = [] →
    ∃ t, exec .ret s = .next t ∧ t.status = .fault (.stackUnderflow s.pc) ∧ Frame [] s t)

/-- R104: the target is `nnn` plus V0 or Vx by `jmp_offset_mode`, modulo 4096; `x` is `nnn div 256`. The wrap and the full `nnn`
under `vx` are the spec's own decision D12 (its G3). -/
def Obligations.JumpWithOffset : Prop :=
  RowDecodes 0xF000 0xB000 (fun w => .jpV0 (fieldNNN w) (fieldX w)) ∧
  (∀ w : Word, (fieldX w).val = (fieldNNN w).toNat / 256) ∧
  ∀ (s : State) (nnn : Addr) (x : Reg), ∃ t, exec (.jpV0 nnn x) s = .next t ∧
    (s.cfg.jmpOffsetMode = .v0 → t.pc.toNat = (nnn.toNat + (s.readV 0).toNat) % 4096) ∧
    (s.cfg.jmpOffsetMode = .vx → t.pc.toNat = (nnn.toNat + (s.readV x).toNat) % 4096) ∧
    EndsOk t ∧ Frame [.pc] s t

/-- R105 to R108: the four skips on equal or different values of a register and an immediate or two registers. -/
def Obligations.SkipsCompareAndMoveOnlyPc : Prop :=
  RowDecodes 0xF000 0x3000 (fun w => .seImm (fieldX w) (fieldNN w)) ∧
  RowDecodes 0xF000 0x4000 (fun w => .sneImm (fieldX w) (fieldNN w)) ∧
  RowDecodes 0xF00F 0x5000 (fun w => .seReg (fieldX w) (fieldY w)) ∧
  RowDecodes 0xF00F 0x9000 (fun w => .sneReg (fieldX w) (fieldY w)) ∧
  (∀ (s : State) (x : Reg) (nn : Byte),
    (∃ t, exec (.seImm x nn) s = .next t ∧ EndsOk t ∧ Frame [.pc] s t ∧
      (s.readV x = nn → PcMovedBy 4 s t) ∧ (s.readV x ≠ nn → PcMovedBy 2 s t)) ∧
    (∃ t, exec (.sneImm x nn) s = .next t ∧ EndsOk t ∧ Frame [.pc] s t ∧
      (s.readV x ≠ nn → PcMovedBy 4 s t) ∧ (s.readV x = nn → PcMovedBy 2 s t))) ∧
  (∀ (s : State) (x y : Reg),
    (∃ t, exec (.seReg x y) s = .next t ∧ EndsOk t ∧ Frame [.pc] s t ∧
      (s.readV x = s.readV y → PcMovedBy 4 s t) ∧ (s.readV x ≠ s.readV y → PcMovedBy 2 s t)) ∧
    (∃ t, exec (.sneReg x y) s = .next t ∧ EndsOk t ∧ Frame [.pc] s t ∧
      (s.readV x ≠ s.readV y → PcMovedBy 4 s t) ∧ (s.readV x = s.readV y → PcMovedBy 2 s t)))

/-- A call followed by the matching return resumes after the call with the stack as it was (R102, R103, with the spec's own decisions
D5 and D1 on the address pushed). -/
def Obligations.ReturnUndoesCall : Prop :=
  ∀ (s t u : State) (nnn : Addr), exec (.call nnn) s = .next t →
    (∃ v, exec .ret t = .next v) ∧
    (exec .ret t = .next u → PcMovedBy 2 s u ∧ Frame [.pc] s u ∧ EndsOk u)

/-! Registers and arithmetic (41_alu.md). -/

/-- R121 and R122. That `7xnn` writes no flag is the spec's own decision D8. -/
def Obligations.LoadAndAddImmediate : Prop :=
  RowDecodes 0xF000 0x6000 (fun w => .ldImm (fieldX w) (fieldNN w)) ∧
  RowDecodes 0xF000 0x7000 (fun w => .addImm (fieldX w) (fieldNN w)) ∧
  ∀ (s : State) (x : Reg) (nn : Byte),
    (∃ t, exec (.ldImm x nn) s = .next t ∧ t.readV x = nn ∧
      SameRegs [x] s t ∧ PcMovedBy 2 s t ∧ EndsOk t ∧ Frame [.v, .pc] s t) ∧
    (∃ t, exec (.addImm x nn) s = .next t ∧ (t.readV x).toNat = ((s.readV x).toNat + nn.toNat) % 256 ∧
      SameRegs [x] s t ∧ PcMovedBy 2 s t ∧ EndsOk t ∧ Frame [.v, .pc] s t)

/-- R123 to R126: copy, or, and, exclusive or, bit by bit. That the logic instructions leave VF alone is the spec's own decision
D7. -/
def Obligations.CopyAndLogic : Prop :=
  RowDecodes 0xF00F 0x8000 (fun w => .ldReg (fieldX w) (fieldY w)) ∧
  RowDecodes 0xF00F 0x8001 (fun w => .orReg (fieldX w) (fieldY w)) ∧
  RowDecodes 0xF00F 0x8002 (fun w => .andReg (fieldX w) (fieldY w)) ∧
  RowDecodes 0xF00F 0x8003 (fun w => .xorReg (fieldX w) (fieldY w)) ∧
  ∀ (s : State) (x y : Reg),
    (∃ t, exec (.ldReg x y) s = .next t ∧ t.readV x = s.readV y ∧
      SameRegs [x] s t ∧ PcMovedBy 2 s t ∧ EndsOk t ∧ Frame [.v, .pc] s t) ∧
    (∃ t, exec (.orReg x y) s = .next t ∧
      (∀ k, (t.readV x).getLsbD k = ((s.readV x).getLsbD k || (s.readV y).getLsbD k)) ∧
      SameRegs [x] s t ∧ PcMovedBy 2 s t ∧ EndsOk t ∧ Frame [.v, .pc] s t) ∧
    (∃ t, exec (.andReg x y) s = .next t ∧
      (∀ k, (t.readV x).getLsbD k = ((s.readV x).getLsbD k && (s.readV y).getLsbD k)) ∧
      SameRegs [x] s t ∧ PcMovedBy 2 s t ∧ EndsOk t ∧ Frame [.v, .pc] s t) ∧
    (∃ t, exec (.xorReg x y) s = .next t ∧
      (∀ k, (t.readV x).getLsbD k = ((s.readV x).getLsbD k ^^ (s.readV y).getLsbD k)) ∧
      SameRegs [x] s t ∧ PcMovedBy 2 s t ∧ EndsOk t ∧ Frame [.v, .pc] s t)

/-- R127: the sum modulo 256 and VF = carry. That the flag remains when x = 0xF is the spec's own decision D6 (R120). -/
def Obligations.AddRegistersWithCarry : Prop :=
  RowDecodes 0xF00F 0x8004 (fun w => .addReg (fieldX w) (fieldY w)) ∧
  ∀ (s : State) (x y : Reg), ∃ t, exec (.addReg x y) s = .next t ∧
    (x ≠ VF → (t.readV x).toNat = ((s.readV x).toNat + (s.readV y).toNat) % 256) ∧
    (t.readV VF).toNat = (if (s.readV x).toNat + (s.readV y).toNat > 255 then 1 else 0) ∧
    SameRegs [x, VF] s t ∧ PcMovedBy 2 s t ∧ EndsOk t ∧ Frame [.v, .pc] s t

/-- R128 and R130: the difference modulo 256, and VF = 1 exactly when the minuend is strictly greater. The flag of `8xy7` and the
flag that remains when x = 0xF are the spec's own decisions D9 and D6. -/
def Obligations.SubtractWithStrictFlag : Prop :=
  RowDecodes 0xF00F 0x8005 (fun w => .sub (fieldX w) (fieldY w)) ∧
  RowDecodes 0xF00F 0x8007 (fun w => .subn (fieldX w) (fieldY w)) ∧
  ∀ (s : State) (x y : Reg),
    (∃ t, exec (.sub x y) s = .next t ∧
      (x ≠ VF → (t.readV x).toNat = ((s.readV x).toNat + 256 - (s.readV y).toNat) % 256) ∧
      (t.readV VF).toNat = (if (s.readV x).toNat > (s.readV y).toNat then 1 else 0) ∧
      SameRegs [x, VF] s t ∧ PcMovedBy 2 s t ∧ EndsOk t ∧ Frame [.v, .pc] s t) ∧
    (∃ t, exec (.subn x y) s = .next t ∧
      (x ≠ VF → (t.readV x).toNat = ((s.readV y).toNat + 256 - (s.readV x).toNat) % 256) ∧
      (t.readV VF).toNat = (if (s.readV y).toNat > (s.readV x).toNat then 1 else 0) ∧
      SameRegs [x, VF] s t ∧ PcMovedBy 2 s t ∧ EndsOk t ∧ Frame [.v, .pc] s t)

/-- R129 and R131: Vy (`legacy`) or Vx (`in_place`) shifted by one, VF = the bit shifted out; Vy keeps its value unless it is a
target. The unused operand and the flag that remains when x = 0xF are the spec's own decisions D10 and D6. -/
def Obligations.ShiftsByQuirk : Prop :=
  RowDecodes 0xF00F 0x8006 (fun w => .shr (fieldX w) (fieldY w)) ∧
  RowDecodes 0xF00F 0x800E (fun w => .shl (fieldX w) (fieldY w)) ∧
  ∀ (s : State) (x y z : Reg),
    (s.cfg.shiftMode = .legacy → z = y) → (s.cfg.shiftMode = .inPlace → z = x) →
    (∃ t, exec (.shr x y) s = .next t ∧
      (x ≠ VF → (t.readV x).toNat = (s.readV z).toNat / 2) ∧
      (t.readV VF).toNat = (s.readV z).toNat % 2 ∧
      SameRegs [x, VF] s t ∧ PcMovedBy 2 s t ∧ EndsOk t ∧ Frame [.v, .pc] s t) ∧
    (∃ t, exec (.shl x y) s = .next t ∧
      (x ≠ VF → (t.readV x).toNat = (s.readV z).toNat * 2 % 256) ∧
      (t.readV VF).toNat = (s.readV z).toNat / 128 ∧
      SameRegs [x, VF] s t ∧ PcMovedBy 2 s t ∧ EndsOk t ∧ Frame [.v, .pc] s t)

/-! Index pointer and random (42_index_and_random.md). -/

/-- R140 and R143: `nnn` zero-extended, and Vx times 5. That the whole byte is multiplied is the spec's own decision D21. -/
def Obligations.LoadIndexAndGlyphAddress : Prop :=
  RowDecodes 0xF000 0xA000 (fun w => .ldI (fieldNNN w)) ∧
  RowDecodes 0xF0FF 0xF029 (fun w => .ldF (fieldX w)) ∧
  (∀ (s : State) (nnn : Addr), ∃ t, exec (.ldI nnn) s = .next t ∧ t.i.toNat = nnn.toNat ∧
    PcMovedBy 2 s t ∧ EndsOk t ∧ Frame [.i, .pc] s t) ∧
  (∀ (s : State) (x : Reg), ∃ t, exec (.ldF x) s = .next t ∧ t.i.toNat = (s.readV x).toNat * 5 ∧
    PcMovedBy 2 s t ∧ EndsOk t ∧ Frame [.i, .pc] s t)

/-- R141: RAND of this CYCLE, or 0, under the mask. RAND is the field `rand`, for every value of it (log entry 2). -/
def Obligations.RandomUnderMask : Prop :=
  RowDecodes 0xF000 0xC000 (fun w => .rnd (fieldX w) (fieldNN w)) ∧
  ∀ (s : State) (x : Reg) (nn : Byte), ∃ t, exec (.rnd x nn) s = .next t ∧
    (s.cfg.randomMode = .random → ∀ k, (t.readV x).getLsbD k = (s.rand.getLsbD k && nn.getLsbD k)) ∧
    (s.cfg.randomMode = .zero → t.readV x = 0) ∧
    SameRegs [x] s t ∧ PcMovedBy 2 s t ∧ EndsOk t ∧ Frame [.v, .pc] s t

/-- R142: past 0xFFF the sum wraps modulo 0x1000 and VF is set under `set_vf`; otherwise I is the sum and VF is not written. The
value after an overflow and when VF is written are the spec's own decision D19. -/
def Obligations.AddToIndexByQuirk : Prop :=
  RowDecodes 0xF0FF 0xF01E (fun w => .addI (fieldX w)) ∧
  ∀ (s : State) (x : Reg), ∃ t, exec (.addI x) s = .next t ∧
    (s.i.toNat + (s.readV x).toNat ≤ 0xFFF →
      t.i.toNat = s.i.toNat + (s.readV x).toNat ∧ Same .v s t) ∧
    (s.i.toNat + (s.readV x).toNat > 0xFFF →
      t.i.toNat = (s.i.toNat + (s.readV x).toNat) % 0x1000 ∧
      (s.cfg.addIndexMode = .setVf → t.readV VF = 1 ∧ SameRegs [VF] s t) ∧
      (s.cfg.addIndexMode = .noVf → Same .v s t)) ∧
    PcMovedBy 2 s t ∧ EndsOk t ∧ Frame [.v, .i, .pc] s t

/-! Display (43_display.md). -/

/-- R161. -/
def Obligations.ClearDisplay : Prop :=
  RowDecodes 0xFFFF 0x00E0 (fun _ => .cls) ∧
  ∀ s : State, ∃ t, exec .cls s = .next t ∧ (∀ r c, r < 32 → c < 64 → t.pixel r c = false) ∧
    PcMovedBy 2 s t ∧ EndsOk t ∧ Frame [.fb, .pc] s t

/-- R163: every pixel of the screen is toggled exactly where the sprite has a 1, and VF is 1 exactly when some pixel went from 1 to
0. The clipping of columns past 63 and rows past 31 (R162), the bit order and `n = 0`, and when VF is written are the spec's own
decisions D14, D15 and D16. -/
def Obligations.DrawTogglesTheSpritePixels : Prop :=
  RowDecodes 0xF000 0xD000 (fun w => .drw (fieldX w) (fieldY w) (fieldN w)) ∧
  ∀ (s : State) (x y : Reg) (n : BitVec 4), ∃ t, exec (.drw x y n) s = .next t ∧
    s.spriteColumn x = (s.readV x).toNat % 64 ∧ s.spriteTop y = (s.readV y).toNat % 32 ∧
    (∀ r c, r < 32 → c < 64 → (SpritePixel s x y n r c → t.pixel r c = !s.pixel r c) ∧
      (¬ SpritePixel s x y n r c → t.pixel r c = s.pixel r c)) ∧
    ((∃ r c, r < 32 ∧ c < 64 ∧ s.pixel r c = true ∧ t.pixel r c = false) → t.readV VF = 1) ∧
    ((¬ ∃ r c, r < 32 ∧ c < 64 ∧ s.pixel r c = true ∧ t.pixel r c = false) → t.readV VF = 0) ∧
    SameRegs [VF] s t ∧ PcMovedBy 2 s t ∧ EndsOk t ∧ Frame [.fb, .v, .pc] s t

/-- R164 (a): the same draw twice, with x and y not 0xF, restores the framebuffer. By R163 the second draw collides exactly when the
sprite has a 1 on a pixel that was dark before both draws; so R164 (b), VF = 1 exactly when the sprite has a 1 inside the screen,
holds where the screen was dark under the sprite, which is stated, and not elsewhere (log entry 12, DEDUCED). -/
def Obligations.DrawTwiceRestoresTheScreen : Prop :=
  ∀ (s t u : State) (x y : Reg) (n : BitVec 4), x ≠ VF → y ≠ VF →
    exec (.drw x y n) s = .next t → exec (.drw x y n) t = .next u →
    u.fb = s.fb ∧
    (u.readV VF = 1 ↔ ∃ r c, r < 32 ∧ c < 64 ∧ SpritePixel s x y n r c ∧ s.pixel r c = false) ∧
    ((∀ r c, SpritePixel s x y n r c → s.pixel r c = false) →
      (u.readV VF = 1 ↔ ∃ r c, r < 32 ∧ c < 64 ∧ SpritePixel s x y n r c))

/-! Keypad and timer access (44_keypad_and_timers.md). -/

/-- R181 and R182. The key number, Vx modulo 16 (R180), is the spec's own decision D17. -/
def Obligations.SkipsOnAKey : Prop :=
  RowDecodes 0xF0FF 0xE09E (fun w => .skp (fieldX w)) ∧
  RowDecodes 0xF0FF 0xE0A1 (fun w => .sknp (fieldX w)) ∧
  ∀ (s : State) (x : Reg) (k : Nat), k = (s.readV x).toNat % 16 →
    (∃ t, exec (.skp x) s = .next t ∧ EndsOk t ∧ Frame [.pc] s t ∧
      (s.keys.getLsbD k = true → PcMovedBy 4 s t) ∧ (s.keys.getLsbD k = false → PcMovedBy 2 s t)) ∧
    (∃ t, exec (.sknp x) s = .next t ∧ EndsOk t ∧ Frame [.pc] s t ∧
      (s.keys.getLsbD k = false → PcMovedBy 4 s t) ∧ (s.keys.getLsbD k = true → PcMovedBy 2 s t))

/-- R183: with no key pressed nothing changes and the status is WAIT_KEY; else Vx is the least pressed key. Which of several keys
is taken is the spec's own decision D18. -/
def Obligations.WaitForKeyTakesTheLeastKey : Prop :=
  RowDecodes 0xF0FF 0xF00A (fun w => .ldVxK (fieldX w)) ∧
  (∀ (s : State) (x : Reg), (∀ k, k < 16 → s.keys.getLsbD k = false) →
    ∃ t, exec (.ldVxK x) s = .next t ∧ t.status = .waitKey ∧ Frame [] s t) ∧
  (∀ (s : State) (x : Reg) (k : Nat), k < 16 → s.keys.getLsbD k = true →
    (∀ j, j < k → s.keys.getLsbD j = false) →
    ∃ t, exec (.ldVxK x) s = .next t ∧ (t.readV x).toNat = k ∧
      SameRegs [x] s t ∧ PcMovedBy 2 s t ∧ EndsOk t ∧ Frame [.v, .pc] s t)

/-- R184, R185 and R186. -/
def Obligations.TimerReadAndWrite : Prop :=
  RowDecodes 0xF0FF 0xF007 (fun w => .ldVxDt (fieldX w)) ∧
  RowDecodes 0xF0FF 0xF015 (fun w => .ldDtVx (fieldX w)) ∧
  RowDecodes 0xF0FF 0xF018 (fun w => .ldStVx (fieldX w)) ∧
  ∀ (s : State) (x : Reg),
    (∃ t, exec (.ldVxDt x) s = .next t ∧ t.readV x = s.dt ∧
      SameRegs [x] s t ∧ PcMovedBy 2 s t ∧ EndsOk t ∧ Frame [.v, .pc] s t) ∧
    (∃ t, exec (.ldDtVx x) s = .next t ∧ t.dt = s.readV x ∧ PcMovedBy 2 s t ∧ EndsOk t ∧ Frame [.dt, .pc] s t) ∧
    (∃ t, exec (.ldStVx x) s = .next t ∧ t.st = s.readV x ∧ (t.soundActive = true ↔ s.readV x ≠ 0) ∧
      PcMovedBy 2 s t ∧ EndsOk t ∧ Frame [.st, .pc] s t)

/-! Memory instructions (45_memory_ops.md). -/

/-- R201: hundreds, tens and ones at I, I + 1, I + 2 (modulo 4096), and no other byte. The order of the digits and the wrap are the
spec's own decisions D22 and D2. -/
def Obligations.DecimalDigitsAreStored : Prop :=
  RowDecodes 0xF0FF 0xF033 (fun w => .ldB (fieldX w)) ∧
  ∀ (s : State) (x : Reg), s.mem.wf = true → ∃ t, exec (.ldB x) s = .next t ∧
    (t.memRead (s.indexAddr 0)).toNat = (s.readV x).toNat / 100 ∧
    (t.memRead (s.indexAddr 1)).toNat = (s.readV x).toNat / 10 % 10 ∧
    (t.memRead (s.indexAddr 2)).toNat = (s.readV x).toNat % 10 ∧
    (∀ a, ¬ InBlock (s.indexAddr 0) 3 a → t.memRead a = s.memRead a) ∧
    PcMovedBy 2 s t ∧ EndsOk t ∧ Frame [.mem, .pc] s t

/-- R202: V0 to Vx at I upward (modulo 4096), no other byte, and I by `store_load_mode`. The increment after all writes and the two
wraps are the spec's own decisions D23, D3 and D2. -/
def Obligations.BlockStore : Prop :=
  RowDecodes 0xF0FF 0xF055 (fun w => .ldMemVx (fieldX w)) ∧
  ∀ (s : State) (x : Reg), s.mem.wf = true → ∃ t, exec (.ldMemVx x) s = .next t ∧
    (∀ r : Reg, r ≤ x → t.memRead (s.indexAddr r.val) = s.readV r) ∧
    (∀ a, ¬ InBlock (s.indexAddr 0) (x.val + 1) a → t.memRead a = s.memRead a) ∧
    (s.cfg.storeLoadMode = .increment → t.i.toNat = (s.i.toNat + x.val + 1) % 65536) ∧
    (s.cfg.storeLoadMode = .unchanged → t.i = s.i) ∧
    PcMovedBy 2 s t ∧ EndsOk t ∧ Frame [.mem, .i, .pc] s t

/-- R203: V0 to Vx from I upward (modulo 4096), no other register, and I by `store_load_mode`, with the spec's own decisions D23,
D3 and D2; and the round trip: a block store, then the same block load from a state with the memory it left and the same base
index, restores V0 to Vx whatever the registers held in between. -/
def Obligations.BlockLoad : Prop :=
  RowDecodes 0xF0FF 0xF065 (fun w => .ldVxMem (fieldX w)) ∧
  (∀ (s : State) (x : Reg), ∃ t, exec (.ldVxMem x) s = .next t ∧
    (∀ r : Reg, r ≤ x → t.readV r = s.memRead (s.indexAddr r.val)) ∧
    (∀ r : Reg, x < r → t.readV r = s.readV r) ∧
    (s.cfg.storeLoadMode = .increment → t.i.toNat = (s.i.toNat + x.val + 1) % 65536) ∧
    (s.cfg.storeLoadMode = .unchanged → t.i = s.i) ∧
    PcMovedBy 2 s t ∧ EndsOk t ∧ Frame [.v, .i, .pc] s t) ∧
  (∀ (s t u v : State) (x : Reg), s.mem.wf = true → exec (.ldMemVx x) s = .next t →
    u.mem = t.mem → u.i = s.i → exec (.ldVxMem x) u = .next v → ∀ r : Reg, r ≤ x → v.readV r = s.readV r)

/-! Statuses, faults, events (60_exceptions.md). -/

/-- R221: an unknown word changes nothing but, when `allow_unknown`, PC. What happens to PC is the spec's own decision D24. -/
def Obligations.UnknownOpcodeTouchesOnlyPc : Prop :=
  ∀ s : State, decodeWord s.fetchWord = .error (.unknownOpcode s.fetchWord) →
    ∃ t, cycle s = .next t ∧ t.status = .fault (.unknownOpcode s.fetchWord s.pc) ∧
      (s.cfg.allowUnknown = true → PcMovedBy 2 s t) ∧ (s.cfg.allowUnknown = false → t.pc = s.pc) ∧
      Frame [.pc] s t

/-- R222: `00EE` with an empty stack changes nothing. That this holds whatever `allow_unknown` is, is the spec's own decision D25
(log entry 7). -/
def Obligations.StackUnderflowTouchesNothing : Prop :=
  ∀ s : State, s.fetchWord = 0x00EE → s.stack = [] →
    ∃ t, cycle s = .next t ∧ t.status = .fault (.stackUnderflow s.pc) ∧ Frame [] s t

/-- R220: every CYCLE returns exactly one status; which one, and the information reported with it, is as the table says: 1 when
the word is `Fx0A` and no key flag is set, 2 when it matches no row, 3 when it is `00EE` and STACK is empty, else 0, the
instruction having been executed; under 1 and 3 nothing changed. The numeric codes are the spec's own decision D26. -/
def Obligations.EveryCycleReturnsItsStatus : Prop :=
  ∀ s : State, ∃ t, cycle s = .next t ∧ t.status.code ≤ 3 ∧
    (t.status.code = 1 ↔ s.fetchWord &&& 0xF0FF = 0xF00A ∧ s.keys = 0) ∧
    (t.status.code = 2 ↔ ∀ r ∈ opcodeTable, r.selects s.fetchWord = false) ∧
    (t.status.code = 3 ↔ s.fetchWord = 0x00EE ∧ s.stack = []) ∧
    (t.status.code = 0 → ∃ i, decodeWord s.fetchWord = .ok i ∧ exec i s = .next t) ∧
    (t.status.code = 2 → t.status = .fault (.unknownOpcode s.fetchWord s.pc)) ∧
    (t.status.code = 3 → t.status = .fault (.stackUnderflow s.pc)) ∧
    (t.status.code = 1 ∨ t.status.code = 3 → Frame [] s t)

/-- R223: every instruction answers a next state, and the only one that can fault is `00EE` with an empty stack. And every event has a
next state, but for a RESET whose arguments it cannot accept (R220, R250): any sequence of events is legal, and which arguments
are refused, are the spec's own decisions D32 and D29 (log entry 7); the refused repetition is log entry 8. -/
def Obligations.OnlyAnEmptyReturnFaults : Prop :=
  (∀ (i : Instr) (s : State), ∃ t, exec i s = .next t ∧ ((∃ f, t.status = .fault f) ↔ i = .ret ∧ s.stack = [])) ∧
  (∀ (e : Event) (s : State), (∀ a, e = .reset a → a.ok) → ∃ t, applyEvent e s = .next t)

/-- R230 and R231: TICK takes one from each non-zero timer and changes nothing else; `sound_active` is ST ≠ 0. -/
def Obligations.TickCountsDown : Prop :=
  ∀ s : State, ∃ t, applyEvent .tick s = .next t ∧
    (0 < s.dt.toNat → t.dt.toNat = s.dt.toNat - 1) ∧ (s.dt.toNat = 0 → t.dt.toNat = 0) ∧
    (0 < s.st.toNat → t.st.toNat = s.st.toNat - 1) ∧ (s.st.toNat = 0 → t.st.toNat = 0) ∧
    (s.soundActive = true ↔ s.st.toNat ≠ 0) ∧ t.status = s.status ∧ Frame [.dt, .st] s t

/-- After `n` TICKs each timer has lost `n`, stopping at 0, and nothing else has changed. -/
def Obligations.TimersAfterManyTicks : Prop :=
  ∀ (n : Nat) (s : State), ∃ t, runEvents (List.replicate n .tick) s = .next t ∧
    t.dt.toNat = s.dt.toNat - n ∧ t.st.toNat = s.st.toNat - n ∧ Frame [.dt, .st] s t

/-- R29's event KEYS: all 16 flags at once, and nothing else. -/
def Obligations.KeysLatchesAllFlags : Prop :=
  ∀ (s : State) (k : BitVec 16), ∃ t, applyEvent (.keys k) s = .next t ∧
    (∀ i, i < 16 → t.keys.getLsbD i = k.getLsbD i) ∧ t.status = s.status ∧ Frame [.keys] s t

/-- The inference that R227 marks as derived: where the next CYCLE faults and leaves PC, every sequence of events without RESET
leaves the same fault standing; every CYCLE returns it, and only the timers and the key flags can change. -/
def Obligations.FaultIsReturnedForEver : Prop :=
  ∀ (s : State) (f : Fault) (es : List Event), StandsAtFault s f → (∀ e ∈ es, e.isReset = false) →
    ∃ t, runEvents es s = .next t ∧ StandsAtFault t f ∧ (∀ p, p ∉ [.dt, .st, .keys] → Same p s t) ∧
      ((∃ e ∈ es, e.isCycle = true) → t.status = .fault f)

/-- R237: a program that waits for a key waits as long as the host presses none (every KEYS has all flags 0) and issues no
RESET: every CYCLE returns WAIT_KEY, and only the timers can change. -/
def Obligations.WaitLastsUntilAKeyComes : Prop :=
  ∀ (s : State) (es : List Event), WaitsForKey s → (∀ e ∈ es, e.isReset = false ∧ ∀ k, e = .keys k → k = 0) →
    ∃ t, runEvents es s = .next t ∧ WaitsForKey t ∧ (∀ p, p ∉ [.dt, .st] → Same p s t) ∧
      ((∃ e ∈ es, e.isCycle = true) → t.status = .waitKey)

/-- R238's frame table, which the spec marks as derived: what each event may change, and the three statuses that keep PC; RESET
sets everything. -/
def Obligations.EventsChangeOnlyWhatTheFrameTableAllows : Prop :=
  (∀ (e : Event) (s t : State), e.isReset = false → applyEvent e s = .next t →
    (∀ p, eventMayChange p e s = false → Same p s t) ∧ SameHost s t) ∧
  (∀ (r : Option Byte) (s t : State), applyEvent (.cycle r) s = .next t →
    (t.status = .waitKey ∨ (∃ a, t.status = .fault (.stackUnderflow a)) ∨
      ((∃ w a, t.status = .fault (.unknownOpcode w a)) ∧ s.cfg.allowUnknown = false)) → t.pc = s.pc) ∧
  (∀ (a : ResetArgs) (s t : State), applyEvent (.reset a) s = .next t →
    (∀ r : Reg, t.readV r = 0) ∧ t.i = 0 ∧ t.pc = 0x200 ∧ t.stack = [] ∧ t.dt = 0 ∧ t.st = 0 ∧
      (∀ r c, t.pixel r c = false) ∧ t.keys = 0)

/-! Configuration and RAND (10_state.md). -/

/-- A quirk matters only to the instructions R31 lists for it, and `allow_unknown` to none (R32): under another configuration
that agrees on the instruction's own quirk, `exec` does the same. -/
def Obligations.QuirksAffectOnlyTheirInstructions : Prop :=
  ∀ (i : Instr) (s t : State) (c : Config), quirkAgrees s.cfg c i → exec i s = .next t →
    exec i { s with cfg := c } = .next { t with cfg := c }

/-- RAND is read only by `Cxnn` under `random_mode = random` (R33): otherwise another RAND changes nothing. -/
def Obligations.RandIsReadOnlyByRnd : Prop :=
  ∀ (i : Instr) (s t : State) (r : Byte),
    ((∃ x nn, i = .rnd x nn) → s.cfg.randomMode = .zero) → exec i s = .next t →
    exec i { s with rand := r } = .next { t with rand := r }

/-! RESET, the end of a run, and the step (70_reset_and_hazards.md, 00_scope.md). -/

/-- R250 to R255: RESET refuses arguments out of range (the spec's own decision D29); otherwise memory holds `inject_ram`, else the
image from 0x200, else FONT from 0x000, else 0, everything else is zero (the spec's own decision D20 for all but V and PC), PC
is 0x200, and the configuration is bound. -/
def Obligations.ResetBuildsTheStartUpState : Prop :=
  (∀ (a : ResetArgs) (s : State), a.font.length ≠ 80 ∨ a.image.length > 3584 ∨
      (∃ p ∈ a.inject, p.1 > 0xFFF ∨ p.2 > 255) → ∃ r, applyEvent (.reset a) s = .refused r) ∧
  (∀ (a : ResetArgs) (s : State), a.ok → ∃ t, applyEvent (.reset a) s = .next t ∧
    (∀ p ∈ a.inject, (t.memRead p.1).toNat = p.2) ∧
    (∀ c, c < 0x200 → (∀ p ∈ a.inject, p.1 ≠ c) → t.memRead c = a.font.getD c 0) ∧
    (∀ c, 0x200 ≤ c → c < 4096 → (∀ p ∈ a.inject, p.1 ≠ c) → t.memRead c = a.image.getD (c - 0x200) 0) ∧
    (∀ r : Reg, t.readV r = 0) ∧ t.i = 0 ∧ t.pc = 0x200 ∧ t.stack = [] ∧ t.dt = 0 ∧ t.st = 0 ∧
    (∀ r c, t.pixel r c = false) ∧ t.keys = 0 ∧ t.cfg = a.cfg)

/-- R38 and R252: the values of `State.reset`, which is RESET with the default FONT, no image and no `inject_ram`. The font's bytes
are the spec's own D31 and the zeros of I, STACK, the timers, FB and K its D20; that memory lists nothing is the model's own
form (log entry 5). -/
def Obligations.ResetStateHoldsTheResetValues : Prop :=
  (∀ a, a < 80 → State.reset.memRead a =
    ([0xF0, 0x90, 0x90, 0x90, 0xF0] ++ [0x20, 0x60, 0x20, 0x20, 0x70] ++ [0xF0, 0x10, 0xF0, 0x80, 0xF0] ++
     [0xF0, 0x10, 0xF0, 0x10, 0xF0] ++ [0x90, 0x90, 0xF0, 0x10, 0x10] ++ [0xF0, 0x80, 0xF0, 0x10, 0xF0] ++
     [0xF0, 0x80, 0xF0, 0x90, 0xF0] ++ [0xF0, 0x10, 0x20, 0x40, 0x40] ++ [0xF0, 0x90, 0xF0, 0x90, 0xF0] ++
     [0xF0, 0x90, 0xF0, 0x10, 0xF0] ++ [0xF0, 0x90, 0xF0, 0x90, 0x90] ++ [0xE0, 0x90, 0xE0, 0x90, 0xE0] ++
     [0xF0, 0x80, 0x80, 0x80, 0xF0] ++ [0xE0, 0x90, 0x90, 0x90, 0xE0] ++ [0xF0, 0x80, 0xF0, 0x80, 0xF0] ++
     [0xF0, 0x80, 0xF0, 0x80, 0x80] : List Byte).getD a 0) ∧
  (∀ a, 80 ≤ a → a < 4096 → State.reset.memRead a = 0) ∧
  (∀ r : Reg, State.reset.readV r = 0) ∧ State.reset.i = 0 ∧ State.reset.pc = 0x200 ∧ State.reset.stack = [] ∧
  State.reset.dt = 0 ∧ State.reset.st = 0 ∧ (∀ r c, State.reset.pixel r c = false) ∧ State.reset.keys = 0 ∧
  State.reset.mem = []

/-- `State.reset` is what the event RESET builds from the default FONT, an empty image and an empty `inject_ram`. That RESET may come
in any state and starts afresh is the spec's own decision D35 (R256, log entry 7); that the host's pending events, its schedule
and the count of free values are kept is the model's choice (log entry 11). -/
def Obligations.ResetEventGivesTheResetState : Prop :=
  ∀ (s : State) (c : Config), ∃ t, applyEvent (.reset ⟨defaultFont, [], [], c⟩) s = .next t ∧
    t = { State.reset with cfg := c, draws := s.draws, inbox := s.inbox, schedule := s.schedule }

/-- HALTED_LOOP, as the spec's own decision D34 defines it (R258): at a jump to itself every CYCLE returns OK and changes nothing;
only TICK and KEYS change anything. -/
def Obligations.HaltedLoopStaysHalted : Prop :=
  ∀ (s : State) (es : List Event), HaltedLoop s → (∀ e ∈ es, e.isReset = false) →
    ∃ t, runEvents es s = .next t ∧ HaltedLoop t ∧ (∀ p, p ∉ [.dt, .st, .keys] → Same p s t) ∧
      ((∃ e ∈ es, e.isCycle = true) → t.status = .ok)

/-- When the next event is a CYCLE and the word at PC decodes to `i`, the step is `exec i`, at the state with that event taken
and RAND latched; with no event pending and no pattern the next event is a CYCLE, with the next free value as RAND (the
model's inbox and RAND, log entries 2 and 4). -/
def Obligations.StepRunsTheDecodedInstruction : Prop :=
  (∀ (s t : State) (r : Option Byte) (i : Instr), s.nextEvent = (.cycle r, t) → decodeWord s.fetchWord = .ok i →
    step s = exec i (t.latchRand r)) ∧
  (∀ s : State, s.inbox = [] → s.schedule = [] →
    step s = cycle { s with rand := Config.freeRand s.draws, draws := s.draws + 1 })

/-- The step of a state with an instruction placed by `withFetchWord` runs exactly that instruction (log entries 4 and 6). -/
def Obligations.WithFetchWordRunsTheInstruction : Prop :=
  ∀ (s : State) (i : Instr), s.mem.wf = true → i.wellFormed = true →
    step (s.withFetchWord 16 (encode i).toNat) = exec i ((s.placeWord (encode i)).latchRand none)

/-- Any sequence of events whose RESETs the core accepts has a next state (R8; the spec's own decision D32, log entry 7), and steps
follow the pending events: a sequence put before them is what the next steps do (the model's inbox, log entry 4). -/
def Obligations.StepsTakeThePendingEvents : Prop :=
  (∀ (es : List Event) (s : State), (∀ a, .reset a ∈ es → a.ok) → ∃ t, runEvents es s = .next t) ∧
  (∀ (es : List Event) (s t : State), runEvents es s = .next t →
    core.run es.length { s with inbox := es ++ s.inbox } = .next t)

/-- In an iteration of the reference host (R8, the spec's own decision D32) the TICK follows the CYCLE, whatever the CYCLE returned:
the spec's own decision D33 (R232; log entry 7). -/
def Obligations.ReferenceIterationTicksAfterItsCycle : Prop :=
  ∀ (s : State) (k : BitVec 16) (r : Byte), ∃ u, cycle ((s.latchKeys k).latchRand (some r)) = .next u ∧
    runEvents (referenceIteration k r) s = .next u.tick

/-- Under the reference schedule, whose TICK follows the CYCLE, a program that sets DT and then polls it reads one less: the
inference that R185 and R232 mark as derived. -/
def Obligations.PollAfterSettingDelayReadsOneLess : Prop :=
  ∀ (s t u : State) (k k' : BitVec 16) (r r' : Byte) (x y : Reg),
    decodeWord s.fetchWord = .ok (.ldDtVx x) → runEvents (referenceIteration k r) s = .next t →
    decodeWord t.fetchWord = .ok (.ldVxDt y) → runEvents (referenceIteration k' r') t = .next u →
    (u.readV y).toNat = (s.readV x).toNat - 1 ∧ u.dt.toNat = (s.readV x).toNat - 2

/-! Invariants. -/

/-- Every step keeps memory canonical, and a returned fault on record (the model's own record, log entry 3). -/
def Obligations.StepKeepsInv : Prop :=
  ∀ s t : State, Inv s → step s = .next t → Inv t

/-- The state after reset meets the invariants: memory is canonical and no fault is recorded (the model's own form and record, log
entries 5 and 3), and I is within 12 bits (R23, R38). -/
def Obligations.ResetMeetsInv : Prop := Inv State.reset ∧ IndexIn12Bits State.reset ∧ NoFault State.reset

/-- R23: under `store_load_mode = unchanged` no step takes I out of 12 bits. That Fx1E stays within them is the spec's own decision
D19 (R142; log entry 7). -/
def Obligations.StepKeepsIndexIn12Bits : Prop :=
  ∀ s t : State, IndexIn12Bits s → step s = .next t → IndexIn12Bits t

/-- The first fault of a run stays on record until RESET, and is recorded exactly when a CYCLE returns a fault (the model's own
record, log entry 3). -/
def Obligations.FirstFaultStaysOnRecord : Prop :=
  (∀ s t : State, cycle s = .next t → t.firstFault = match t.status with
    | .fault f => s.firstFault.or (some f)
    | _ => s.firstFault) ∧
  (∀ (e : Event) (s t : State) (f : Fault), e.isReset = false → applyEvent e s = .next t →
    s.firstFault = some f → t.firstFault = some f)
end

