-- ==== Sys2Proof/Laws/Decode.lean ====
section
/-! SUPPORT. Fields of an encoded word, form by form (30_encoding.md R71, R72), and fields of a word that a mask selects. -/

namespace Sys2Proof

theorem regBits_toFin (x : Reg) : (regBits x).toFin = x := rfl

theorem fieldOp_toNat (w : Word) : (fieldOp w).toNat = w.toNat / 4096 := by
  have := w.isLt
  simp [fieldOp, Nat.shiftRight_eq_div_pow]
  omega

theorem fieldX_val (w : Word) : (fieldX w).val = w.toNat / 256 % 16 := by
  simp [fieldX, Nat.shiftRight_eq_div_pow]

theorem fieldY_val (w : Word) : (fieldY w).val = w.toNat / 16 % 16 := by
  simp [fieldY, Nat.shiftRight_eq_div_pow]

theorem fieldN_toNat (w : Word) : (fieldN w).toNat = w.toNat % 16 := by
  simp [fieldN]

theorem fieldNN_toNat (w : Word) : (fieldNN w).toNat = w.toNat % 256 := by
  simp [fieldNN]

theorem fieldNNN_toNat (w : Word) : (fieldNNN w).toNat = w.toNat % 4096 := by
  simp [fieldNNN]

theorem formNNN_toNat (op : BitVec 4) (nnn : Addr) : (formNNN op nnn).toNat = op.toNat * 4096 + nnn.toNat := by
  have := nnn.isLt
  rw [formNNN, BitVec.toNat_append, ← Nat.shiftLeft_add_eq_or_of_lt this, Nat.shiftLeft_eq]

theorem formXNN_toNat (op : BitVec 4) (x : Reg) (nn : Byte) :
    (formXNN op x nn).toNat = op.toNat * 4096 + x.val * 256 + nn.toNat := by
  have h1 := nn.isLt
  have h2 : (regBits x).toNat < 2 ^ 4 := (regBits x).isLt
  have h3 : (regBits x).toNat = x.val := rfl
  rw [formXNN, BitVec.toNat_append, ← Nat.shiftLeft_add_eq_or_of_lt h1, BitVec.toNat_append,
    ← Nat.shiftLeft_add_eq_or_of_lt h2, Nat.shiftLeft_eq, Nat.shiftLeft_eq, h3]
  omega

theorem formXYN_toNat (op : BitVec 4) (x y : Reg) (n : BitVec 4) :
    (formXYN op x y n).toNat = op.toNat * 4096 + x.val * 256 + y.val * 16 + n.toNat := by
  have h1 := n.isLt
  have h2 : (regBits x).toNat < 2 ^ 4 := (regBits x).isLt
  have h3 : (regBits y).toNat < 2 ^ 4 := (regBits y).isLt
  have h4 : (regBits x).toNat = x.val := rfl
  have h5 : (regBits y).toNat = y.val := rfl
  rw [formXYN, BitVec.toNat_append, ← Nat.shiftLeft_add_eq_or_of_lt h1, BitVec.toNat_append,
    ← Nat.shiftLeft_add_eq_or_of_lt h3, BitVec.toNat_append, ← Nat.shiftLeft_add_eq_or_of_lt h2, Nat.shiftLeft_eq,
    Nat.shiftLeft_eq, Nat.shiftLeft_eq, h4, h5]
  omega

/-- A word of two bytes, the high byte first (R53). -/
theorem wordOfBytes_toNat (hi lo : Byte) : (wordOfBytes hi lo).toNat = hi.toNat * 256 + lo.toNat := by
  have := lo.isLt
  rw [wordOfBytes, BitVec.toNat_append, ← Nat.shiftLeft_add_eq_or_of_lt this, Nat.shiftLeft_eq]

theorem highByte_toNat (w : Word) : (highByte w).toNat = w.toNat / 256 := by
  have := w.isLt
  simp [highByte, Nat.shiftRight_eq_div_pow]
  omega

theorem lowByte_toNat (w : Word) : (lowByte w).toNat = w.toNat % 256 := by
  simp [lowByte]

/-- The bytes of a word make the word again. -/
theorem wordOfBytes_high_low (w : Word) : wordOfBytes (highByte w) (lowByte w) = w := by
  apply BitVec.eq_of_toNat_eq
  rw [wordOfBytes_toNat, highByte_toNat, lowByte_toNat]
  omega

theorem keepHigh_or_toNat (w : Word) (low : BitVec 12) :
    (((w >>> 12) <<< 12) ||| low.setWidth 16).toNat = w.toNat / 4096 * 4096 + low.toNat := by
  have h1 := w.isLt
  have h2 := low.isLt
  have h3 : ((w >>> 12) <<< 12).toNat = (w.toNat / 4096) <<< 12 := by
    simp [Nat.shiftRight_eq_div_pow, Nat.shiftLeft_eq]
    omega
  rw [BitVec.toNat_or, h3, BitVec.toNat_setWidth_of_le (by omega), ← Nat.shiftLeft_add_eq_or_of_lt h2, Nat.shiftLeft_eq]

/-- A mask over the top nibble reads `op`. -/
theorem and_F000_toNat (w : Word) : (w &&& (0xF000 : Word)).toNat = w.toNat / 4096 * 4096 := by
  have h : w &&& (0xF000 : Word) = ((w >>> 12) <<< 12) ||| (0#12).setWidth 16 := by
    apply BitVec.eq_of_getElem_eq
    intro i hi
    interval_cases i <;> simp
  rw [h, keepHigh_or_toNat]
  simp

/-- A mask over the top and bottom nibbles reads `op` and `n`. -/
theorem and_F00F_toNat (w : Word) : (w &&& (0xF00F : Word)).toNat = w.toNat / 4096 * 4096 + w.toNat % 16 := by
  have h : w &&& (0xF00F : Word) = ((w >>> 12) <<< 12) ||| ((w.setWidth 4).setWidth 12).setWidth 16 := by
    apply BitVec.eq_of_getElem_eq
    intro i hi
    interval_cases i <;> simp
  rw [h, keepHigh_or_toNat]
  simp
  omega

/-- A mask over the top nibble and the low byte reads `op` and `nn`. -/
theorem and_F0FF_toNat (w : Word) : (w &&& (0xF0FF : Word)).toNat = w.toNat / 4096 * 4096 + w.toNat % 256 := by
  have h : w &&& (0xF0FF : Word) = ((w >>> 12) <<< 12) ||| ((w.setWidth 8).setWidth 12).setWidth 16 := by
    apply BitVec.eq_of_getElem_eq
    intro i hi
    interval_cases i <;> simp
  rw [h, keepHigh_or_toNat]
  simp
  omega

/-- The fields fixed by a row with mask 0xF000 (R74). -/
theorem fieldOp_of_F000 {w v : Word} (h : w &&& 0xF000 = v) : fieldOp w = BitVec.ofNat 4 (v.toNat / 4096) := by
  have h1 := (and_F000_toNat w).symm.trans (congrArg BitVec.toNat h)
  have := w.isLt
  apply BitVec.eq_of_toNat_eq
  rw [fieldOp_toNat, BitVec.toNat_ofNat]
  omega

/-- The fields fixed by a row with mask 0xF00F (R74). -/
theorem fields_of_F00F {w v : Word} (h : w &&& 0xF00F = v) :
    fieldOp w = BitVec.ofNat 4 (v.toNat / 4096) ∧ fieldN w = BitVec.ofNat 4 (v.toNat % 16) := by
  have h1 := (and_F00F_toNat w).symm.trans (congrArg BitVec.toNat h)
  have := w.isLt
  constructor <;> apply BitVec.eq_of_toNat_eq
  · rw [fieldOp_toNat, BitVec.toNat_ofNat]
    omega
  · rw [fieldN_toNat, BitVec.toNat_ofNat]
    omega

/-- The fields fixed by a row with mask 0xF0FF (R74). -/
theorem fields_of_F0FF {w v : Word} (h : w &&& 0xF0FF = v) :
    fieldOp w = BitVec.ofNat 4 (v.toNat / 4096) ∧ fieldNN w = BitVec.ofNat 8 (v.toNat % 256) := by
  have h1 := (and_F0FF_toNat w).symm.trans (congrArg BitVec.toNat h)
  have := w.isLt
  constructor <;> apply BitVec.eq_of_toNat_eq
  · rw [fieldOp_toNat, BitVec.toNat_ofNat]
    omega
  · rw [fieldNN_toNat, BitVec.toNat_ofNat]
    omega

end Sys2Proof
end

