-- ==== Sys2Proof/Laws/Memory.lean ====
section
/-! SUPPORT. MEM: read after write, the canonical form is kept, and equal reads mean equal lists. -/

namespace Sys2Proof.Machine

theorem Memory.wfFrom_le {m : Memory} {lo lo' : Nat} (h : lo' ≤ lo) (hm : Memory.wfFrom lo m = true) :
    Memory.wfFrom lo' m = true := by
  cases m with
  | nil => rfl
  | cons p m =>
    obtain ⟨a, v⟩ := p
    simp only [Memory.wfFrom, Bool.and_eq_true, decide_eq_true_eq] at hm ⊢
    exact ⟨⟨⟨by omega, hm.1.1.2⟩, hm.1.2⟩, hm.2⟩

/-- Below its first entry a canonical memory reads as the unlisted value. -/
theorem Memory.read_below {m : Memory} {lo a : Nat} (hm : Memory.wfFrom lo m = true) (h : a < lo) :
    Memory.read m a = background a := by
  induction m generalizing lo with
  | nil => rfl
  | cons p m ih =>
    obtain ⟨b, v⟩ := p
    simp only [Memory.wfFrom, Bool.and_eq_true, decide_eq_true_eq] at hm
    rw [Memory.read, if_neg (by omega)]
    exact ih hm.2 (by omega)

theorem Memory.read_cell_append (m : Memory) (a b : Nat) (v : Byte) :
    Memory.read (Memory.cell a v ++ m) b =
      if b = a then (if v = background a then Memory.read m b else v) else Memory.read m b := by
  unfold Memory.cell
  split <;> by_cases h : b = a <;> simp [Memory.read, *]

/-- A write leaves every other cell alone, whatever the list. -/
theorem Memory.read_write_ne (m : Memory) {a b : Nat} (v : Byte) (h : b ≠ a) :
    Memory.read (Memory.write m a v) b = Memory.read m b := by
  induction m with
  | nil => simpa [Memory.write, h] using Memory.read_cell_append [] a b v
  | cons p m ih =>
    obtain ⟨c, w⟩ := p
    rw [Memory.write]
    split
    · rw [Memory.read_cell_append, if_neg h]
    · split
      · next hac => rw [Memory.read_cell_append, if_neg h, Memory.read, if_neg (by omega)]
      · simp only [Memory.read, ih]

theorem Memory.read_write_self_from {m : Memory} {lo a : Nat} (v : Byte) (hm : Memory.wfFrom lo m = true) :
    Memory.read (Memory.write m a v) a = v := by
  induction m generalizing lo with
  | nil =>
    have h := Memory.read_cell_append [] a a v
    simp only [List.append_nil] at h
    simp only [Memory.write, h, if_true, Memory.read]
    split <;> simp_all
  | cons p m ih =>
    obtain ⟨c, w⟩ := p
    have hm' := hm
    simp only [Memory.wfFrom, Bool.and_eq_true, decide_eq_true_eq] at hm'
    rw [Memory.write]
    split
    · next hlt =>
      rw [Memory.read_cell_append, if_pos rfl]
      split
      · next hv =>
        rw [Memory.read, if_neg (by omega), Memory.read_below hm'.2 (by omega), hv]
      · rfl
    · split
      · next hac =>
        rw [Memory.read_cell_append, if_pos rfl]
        split
        · next hv => rw [Memory.read_below hm'.2 (by omega), hv]
        · rfl
      · next hac => rw [Memory.read, if_neg hac, ih hm'.2]

/-- A write to a canonical memory is read back. -/
theorem Memory.read_write_self {m : Memory} (a : Nat) (v : Byte) (hm : m.wf = true) :
    Memory.read (Memory.write m a v) a = v := Memory.read_write_self_from v hm

theorem Memory.wfFrom_cell_append {m : Memory} {lo a : Nat} (v : Byte) (hlo : lo ≤ a) (ha : a < 4096)
    (hm : Memory.wfFrom (a + 1) m = true) : Memory.wfFrom lo (Memory.cell a v ++ m) = true := by
  unfold Memory.cell
  split
  · exact Memory.wfFrom_le (by omega) hm
  · simp [Memory.wfFrom, *]

theorem Memory.wfFrom_write {m : Memory} {lo a : Nat} (v : Byte) (hlo : lo ≤ a) (ha : a < 4096)
    (hm : Memory.wfFrom lo m = true) : Memory.wfFrom lo (Memory.write m a v) = true := by
  induction m generalizing lo with
  | nil => simpa [Memory.write] using Memory.wfFrom_cell_append (m := []) v hlo ha rfl
  | cons p m ih =>
    obtain ⟨c, w⟩ := p
    have hm' := hm
    simp only [Memory.wfFrom, Bool.and_eq_true, decide_eq_true_eq] at hm'
    rw [Memory.write]
    split
    · refine Memory.wfFrom_cell_append v hlo ha ?_
      simp only [Memory.wfFrom, Bool.and_eq_true, decide_eq_true_eq]
      exact ⟨⟨⟨by omega, hm'.1.1.2⟩, hm'.1.2⟩, hm'.2⟩
    · split
      · next hac => exact Memory.wfFrom_cell_append v hlo ha (hac ▸ hm'.2)
      · simp only [Memory.wfFrom, Bool.and_eq_true, decide_eq_true_eq]
        exact ⟨hm'.1, ih (by omega) hm'.2⟩

/-- Every write keeps the canonical form. -/
theorem Memory.wf_write {m : Memory} {a : Nat} (v : Byte) (ha : a < 4096) (hm : m.wf = true) :
    (Memory.write m a v).wf = true := Memory.wfFrom_write v (Nat.zero_le a) ha hm

end Sys2Proof.Machine
end

