-- ==== Sys2Proof/Laws/State.lean ====
section
/-! SUPPORT. One lemma per field per update of State, so that no later proof unfolds a record update. -/

namespace Sys2Proof.Machine

@[simp] theorem State.memWrite_mem (s : State) (a : Nat) (b : Byte) : (s.memWrite a b).mem = s.mem.write (a % 4096) b := rfl
@[simp] theorem State.memWrite_v (s : State) (a : Nat) (b : Byte) : (s.memWrite a b).v = s.v := rfl
@[simp] theorem State.memWrite_i (s : State) (a : Nat) (b : Byte) : (s.memWrite a b).i = s.i := rfl
@[simp] theorem State.memWrite_pc (s : State) (a : Nat) (b : Byte) : (s.memWrite a b).pc = s.pc := rfl
@[simp] theorem State.memWrite_stack (s : State) (a : Nat) (b : Byte) : (s.memWrite a b).stack = s.stack := rfl
@[simp] theorem State.memWrite_dt (s : State) (a : Nat) (b : Byte) : (s.memWrite a b).dt = s.dt := rfl
@[simp] theorem State.memWrite_st (s : State) (a : Nat) (b : Byte) : (s.memWrite a b).st = s.st := rfl
@[simp] theorem State.memWrite_fb (s : State) (a : Nat) (b : Byte) : (s.memWrite a b).fb = s.fb := rfl
@[simp] theorem State.memWrite_keys (s : State) (a : Nat) (b : Byte) : (s.memWrite a b).keys = s.keys := rfl
@[simp] theorem State.memWrite_cfg (s : State) (a : Nat) (b : Byte) : (s.memWrite a b).cfg = s.cfg := rfl
@[simp] theorem State.memWrite_rand (s : State) (a : Nat) (b : Byte) : (s.memWrite a b).rand = s.rand := rfl
@[simp] theorem State.memWrite_draws (s : State) (a : Nat) (b : Byte) : (s.memWrite a b).draws = s.draws := rfl
@[simp] theorem State.memWrite_status (s : State) (a : Nat) (b : Byte) : (s.memWrite a b).status = s.status := rfl
@[simp] theorem State.memWrite_firstFault (s : State) (a : Nat) (b : Byte) : (s.memWrite a b).firstFault = s.firstFault := rfl
@[simp] theorem State.memWrite_inbox (s : State) (a : Nat) (b : Byte) : (s.memWrite a b).inbox = s.inbox := rfl
@[simp] theorem State.memWrite_schedule (s : State) (a : Nat) (b : Byte) : (s.memWrite a b).schedule = s.schedule := rfl

@[simp] theorem State.writeV_mem (s : State) (r : Reg) (b : Byte) : (s.writeV r b).mem = s.mem := rfl
@[simp] theorem State.writeV_v (s : State) (r : Reg) (b : Byte) : (s.writeV r b).v = s.v.set r b := rfl
@[simp] theorem State.writeV_i (s : State) (r : Reg) (b : Byte) : (s.writeV r b).i = s.i := rfl
@[simp] theorem State.writeV_pc (s : State) (r : Reg) (b : Byte) : (s.writeV r b).pc = s.pc := rfl
@[simp] theorem State.writeV_stack (s : State) (r : Reg) (b : Byte) : (s.writeV r b).stack = s.stack := rfl
@[simp] theorem State.writeV_dt (s : State) (r : Reg) (b : Byte) : (s.writeV r b).dt = s.dt := rfl
@[simp] theorem State.writeV_st (s : State) (r : Reg) (b : Byte) : (s.writeV r b).st = s.st := rfl
@[simp] theorem State.writeV_fb (s : State) (r : Reg) (b : Byte) : (s.writeV r b).fb = s.fb := rfl
@[simp] theorem State.writeV_keys (s : State) (r : Reg) (b : Byte) : (s.writeV r b).keys = s.keys := rfl
@[simp] theorem State.writeV_cfg (s : State) (r : Reg) (b : Byte) : (s.writeV r b).cfg = s.cfg := rfl
@[simp] theorem State.writeV_rand (s : State) (r : Reg) (b : Byte) : (s.writeV r b).rand = s.rand := rfl
@[simp] theorem State.writeV_draws (s : State) (r : Reg) (b : Byte) : (s.writeV r b).draws = s.draws := rfl
@[simp] theorem State.writeV_status (s : State) (r : Reg) (b : Byte) : (s.writeV r b).status = s.status := rfl
@[simp] theorem State.writeV_firstFault (s : State) (r : Reg) (b : Byte) : (s.writeV r b).firstFault = s.firstFault := rfl
@[simp] theorem State.writeV_inbox (s : State) (r : Reg) (b : Byte) : (s.writeV r b).inbox = s.inbox := rfl
@[simp] theorem State.writeV_schedule (s : State) (r : Reg) (b : Byte) : (s.writeV r b).schedule = s.schedule := rfl

@[simp] theorem State.setIndex_mem (s : State) (w : Word) : (s.setIndex w).mem = s.mem := rfl
@[simp] theorem State.setIndex_v (s : State) (w : Word) : (s.setIndex w).v = s.v := rfl
@[simp] theorem State.setIndex_i (s : State) (w : Word) : (s.setIndex w).i = w := rfl
@[simp] theorem State.setIndex_pc (s : State) (w : Word) : (s.setIndex w).pc = s.pc := rfl
@[simp] theorem State.setIndex_stack (s : State) (w : Word) : (s.setIndex w).stack = s.stack := rfl
@[simp] theorem State.setIndex_dt (s : State) (w : Word) : (s.setIndex w).dt = s.dt := rfl
@[simp] theorem State.setIndex_st (s : State) (w : Word) : (s.setIndex w).st = s.st := rfl
@[simp] theorem State.setIndex_fb (s : State) (w : Word) : (s.setIndex w).fb = s.fb := rfl
@[simp] theorem State.setIndex_keys (s : State) (w : Word) : (s.setIndex w).keys = s.keys := rfl
@[simp] theorem State.setIndex_cfg (s : State) (w : Word) : (s.setIndex w).cfg = s.cfg := rfl
@[simp] theorem State.setIndex_rand (s : State) (w : Word) : (s.setIndex w).rand = s.rand := rfl
@[simp] theorem State.setIndex_draws (s : State) (w : Word) : (s.setIndex w).draws = s.draws := rfl
@[simp] theorem State.setIndex_status (s : State) (w : Word) : (s.setIndex w).status = s.status := rfl
@[simp] theorem State.setIndex_firstFault (s : State) (w : Word) : (s.setIndex w).firstFault = s.firstFault := rfl
@[simp] theorem State.setIndex_inbox (s : State) (w : Word) : (s.setIndex w).inbox = s.inbox := rfl
@[simp] theorem State.setIndex_schedule (s : State) (w : Word) : (s.setIndex w).schedule = s.schedule := rfl

@[simp] theorem State.setDelay_mem (s : State) (b : Byte) : (s.setDelay b).mem = s.mem := rfl
@[simp] theorem State.setDelay_v (s : State) (b : Byte) : (s.setDelay b).v = s.v := rfl
@[simp] theorem State.setDelay_i (s : State) (b : Byte) : (s.setDelay b).i = s.i := rfl
@[simp] theorem State.setDelay_pc (s : State) (b : Byte) : (s.setDelay b).pc = s.pc := rfl
@[simp] theorem State.setDelay_stack (s : State) (b : Byte) : (s.setDelay b).stack = s.stack := rfl
@[simp] theorem State.setDelay_dt (s : State) (b : Byte) : (s.setDelay b).dt = b := rfl
@[simp] theorem State.setDelay_st (s : State) (b : Byte) : (s.setDelay b).st = s.st := rfl
@[simp] theorem State.setDelay_fb (s : State) (b : Byte) : (s.setDelay b).fb = s.fb := rfl
@[simp] theorem State.setDelay_keys (s : State) (b : Byte) : (s.setDelay b).keys = s.keys := rfl
@[simp] theorem State.setDelay_cfg (s : State) (b : Byte) : (s.setDelay b).cfg = s.cfg := rfl
@[simp] theorem State.setDelay_rand (s : State) (b : Byte) : (s.setDelay b).rand = s.rand := rfl
@[simp] theorem State.setDelay_draws (s : State) (b : Byte) : (s.setDelay b).draws = s.draws := rfl
@[simp] theorem State.setDelay_status (s : State) (b : Byte) : (s.setDelay b).status = s.status := rfl
@[simp] theorem State.setDelay_firstFault (s : State) (b : Byte) : (s.setDelay b).firstFault = s.firstFault := rfl
@[simp] theorem State.setDelay_inbox (s : State) (b : Byte) : (s.setDelay b).inbox = s.inbox := rfl
@[simp] theorem State.setDelay_schedule (s : State) (b : Byte) : (s.setDelay b).schedule = s.schedule := rfl

@[simp] theorem State.setSound_mem (s : State) (b : Byte) : (s.setSound b).mem = s.mem := rfl
@[simp] theorem State.setSound_v (s : State) (b : Byte) : (s.setSound b).v = s.v := rfl
@[simp] theorem State.setSound_i (s : State) (b : Byte) : (s.setSound b).i = s.i := rfl
@[simp] theorem State.setSound_pc (s : State) (b : Byte) : (s.setSound b).pc = s.pc := rfl
@[simp] theorem State.setSound_stack (s : State) (b : Byte) : (s.setSound b).stack = s.stack := rfl
@[simp] theorem State.setSound_dt (s : State) (b : Byte) : (s.setSound b).dt = s.dt := rfl
@[simp] theorem State.setSound_st (s : State) (b : Byte) : (s.setSound b).st = b := rfl
@[simp] theorem State.setSound_fb (s : State) (b : Byte) : (s.setSound b).fb = s.fb := rfl
@[simp] theorem State.setSound_keys (s : State) (b : Byte) : (s.setSound b).keys = s.keys := rfl
@[simp] theorem State.setSound_cfg (s : State) (b : Byte) : (s.setSound b).cfg = s.cfg := rfl
@[simp] theorem State.setSound_rand (s : State) (b : Byte) : (s.setSound b).rand = s.rand := rfl
@[simp] theorem State.setSound_draws (s : State) (b : Byte) : (s.setSound b).draws = s.draws := rfl
@[simp] theorem State.setSound_status (s : State) (b : Byte) : (s.setSound b).status = s.status := rfl
@[simp] theorem State.setSound_firstFault (s : State) (b : Byte) : (s.setSound b).firstFault = s.firstFault := rfl
@[simp] theorem State.setSound_inbox (s : State) (b : Byte) : (s.setSound b).inbox = s.inbox := rfl
@[simp] theorem State.setSound_schedule (s : State) (b : Byte) : (s.setSound b).schedule = s.schedule := rfl

@[simp] theorem State.setFb_mem (s : State) (g : Vector (BitVec 64) 32) : (s.setFb g).mem = s.mem := rfl
@[simp] theorem State.setFb_v (s : State) (g : Vector (BitVec 64) 32) : (s.setFb g).v = s.v := rfl
@[simp] theorem State.setFb_i (s : State) (g : Vector (BitVec 64) 32) : (s.setFb g).i = s.i := rfl
@[simp] theorem State.setFb_pc (s : State) (g : Vector (BitVec 64) 32) : (s.setFb g).pc = s.pc := rfl
@[simp] theorem State.setFb_stack (s : State) (g : Vector (BitVec 64) 32) : (s.setFb g).stack = s.stack := rfl
@[simp] theorem State.setFb_dt (s : State) (g : Vector (BitVec 64) 32) : (s.setFb g).dt = s.dt := rfl
@[simp] theorem State.setFb_st (s : State) (g : Vector (BitVec 64) 32) : (s.setFb g).st = s.st := rfl
@[simp] theorem State.setFb_fb (s : State) (g : Vector (BitVec 64) 32) : (s.setFb g).fb = g := rfl
@[simp] theorem State.setFb_keys (s : State) (g : Vector (BitVec 64) 32) : (s.setFb g).keys = s.keys := rfl
@[simp] theorem State.setFb_cfg (s : State) (g : Vector (BitVec 64) 32) : (s.setFb g).cfg = s.cfg := rfl
@[simp] theorem State.setFb_rand (s : State) (g : Vector (BitVec 64) 32) : (s.setFb g).rand = s.rand := rfl
@[simp] theorem State.setFb_draws (s : State) (g : Vector (BitVec 64) 32) : (s.setFb g).draws = s.draws := rfl
@[simp] theorem State.setFb_status (s : State) (g : Vector (BitVec 64) 32) : (s.setFb g).status = s.status := rfl
@[simp] theorem State.setFb_firstFault (s : State) (g : Vector (BitVec 64) 32) : (s.setFb g).firstFault = s.firstFault := rfl
@[simp] theorem State.setFb_inbox (s : State) (g : Vector (BitVec 64) 32) : (s.setFb g).inbox = s.inbox := rfl
@[simp] theorem State.setFb_schedule (s : State) (g : Vector (BitVec 64) 32) : (s.setFb g).schedule = s.schedule := rfl

@[simp] theorem State.push_mem (s : State) (a : Addr) : (s.push a).mem = s.mem := rfl
@[simp] theorem State.push_v (s : State) (a : Addr) : (s.push a).v = s.v := rfl
@[simp] theorem State.push_i (s : State) (a : Addr) : (s.push a).i = s.i := rfl
@[simp] theorem State.push_pc (s : State) (a : Addr) : (s.push a).pc = s.pc := rfl
@[simp] theorem State.push_stack (s : State) (a : Addr) : (s.push a).stack = s.stack ++ [a] := rfl
@[simp] theorem State.push_dt (s : State) (a : Addr) : (s.push a).dt = s.dt := rfl
@[simp] theorem State.push_st (s : State) (a : Addr) : (s.push a).st = s.st := rfl
@[simp] theorem State.push_fb (s : State) (a : Addr) : (s.push a).fb = s.fb := rfl
@[simp] theorem State.push_keys (s : State) (a : Addr) : (s.push a).keys = s.keys := rfl
@[simp] theorem State.push_cfg (s : State) (a : Addr) : (s.push a).cfg = s.cfg := rfl
@[simp] theorem State.push_rand (s : State) (a : Addr) : (s.push a).rand = s.rand := rfl
@[simp] theorem State.push_draws (s : State) (a : Addr) : (s.push a).draws = s.draws := rfl
@[simp] theorem State.push_status (s : State) (a : Addr) : (s.push a).status = s.status := rfl
@[simp] theorem State.push_firstFault (s : State) (a : Addr) : (s.push a).firstFault = s.firstFault := rfl
@[simp] theorem State.push_inbox (s : State) (a : Addr) : (s.push a).inbox = s.inbox := rfl
@[simp] theorem State.push_schedule (s : State) (a : Addr) : (s.push a).schedule = s.schedule := rfl

@[simp] theorem State.dropTop_mem (s : State) : (s.dropTop).mem = s.mem := rfl
@[simp] theorem State.dropTop_v (s : State) : (s.dropTop).v = s.v := rfl
@[simp] theorem State.dropTop_i (s : State) : (s.dropTop).i = s.i := rfl
@[simp] theorem State.dropTop_pc (s : State) : (s.dropTop).pc = s.pc := rfl
@[simp] theorem State.dropTop_stack (s : State) : (s.dropTop).stack = s.stack.dropLast := rfl
@[simp] theorem State.dropTop_dt (s : State) : (s.dropTop).dt = s.dt := rfl
@[simp] theorem State.dropTop_st (s : State) : (s.dropTop).st = s.st := rfl
@[simp] theorem State.dropTop_fb (s : State) : (s.dropTop).fb = s.fb := rfl
@[simp] theorem State.dropTop_keys (s : State) : (s.dropTop).keys = s.keys := rfl
@[simp] theorem State.dropTop_cfg (s : State) : (s.dropTop).cfg = s.cfg := rfl
@[simp] theorem State.dropTop_rand (s : State) : (s.dropTop).rand = s.rand := rfl
@[simp] theorem State.dropTop_draws (s : State) : (s.dropTop).draws = s.draws := rfl
@[simp] theorem State.dropTop_status (s : State) : (s.dropTop).status = s.status := rfl
@[simp] theorem State.dropTop_firstFault (s : State) : (s.dropTop).firstFault = s.firstFault := rfl
@[simp] theorem State.dropTop_inbox (s : State) : (s.dropTop).inbox = s.inbox := rfl
@[simp] theorem State.dropTop_schedule (s : State) : (s.dropTop).schedule = s.schedule := rfl

@[simp] theorem State.endAt_mem (s : State) (a : Addr) : (s.endAt a).mem = s.mem := rfl
@[simp] theorem State.endAt_v (s : State) (a : Addr) : (s.endAt a).v = s.v := rfl
@[simp] theorem State.endAt_i (s : State) (a : Addr) : (s.endAt a).i = s.i := rfl
@[simp] theorem State.endAt_pc (s : State) (a : Addr) : (s.endAt a).pc = a := rfl
@[simp] theorem State.endAt_stack (s : State) (a : Addr) : (s.endAt a).stack = s.stack := rfl
@[simp] theorem State.endAt_dt (s : State) (a : Addr) : (s.endAt a).dt = s.dt := rfl
@[simp] theorem State.endAt_st (s : State) (a : Addr) : (s.endAt a).st = s.st := rfl
@[simp] theorem State.endAt_fb (s : State) (a : Addr) : (s.endAt a).fb = s.fb := rfl
@[simp] theorem State.endAt_keys (s : State) (a : Addr) : (s.endAt a).keys = s.keys := rfl
@[simp] theorem State.endAt_cfg (s : State) (a : Addr) : (s.endAt a).cfg = s.cfg := rfl
@[simp] theorem State.endAt_rand (s : State) (a : Addr) : (s.endAt a).rand = s.rand := rfl
@[simp] theorem State.endAt_draws (s : State) (a : Addr) : (s.endAt a).draws = s.draws := rfl
@[simp] theorem State.endAt_status (s : State) (a : Addr) : (s.endAt a).status = .ok := rfl
@[simp] theorem State.endAt_firstFault (s : State) (a : Addr) : (s.endAt a).firstFault = s.firstFault := rfl
@[simp] theorem State.endAt_inbox (s : State) (a : Addr) : (s.endAt a).inbox = s.inbox := rfl
@[simp] theorem State.endAt_schedule (s : State) (a : Addr) : (s.endAt a).schedule = s.schedule := rfl

@[simp] theorem State.raise_mem (s : State) (f : Fault) : (s.raise f).mem = s.mem := rfl
@[simp] theorem State.raise_v (s : State) (f : Fault) : (s.raise f).v = s.v := rfl
@[simp] theorem State.raise_i (s : State) (f : Fault) : (s.raise f).i = s.i := rfl
@[simp] theorem State.raise_pc (s : State) (f : Fault) : (s.raise f).pc = s.pc := rfl
@[simp] theorem State.raise_stack (s : State) (f : Fault) : (s.raise f).stack = s.stack := rfl
@[simp] theorem State.raise_dt (s : State) (f : Fault) : (s.raise f).dt = s.dt := rfl
@[simp] theorem State.raise_st (s : State) (f : Fault) : (s.raise f).st = s.st := rfl
@[simp] theorem State.raise_fb (s : State) (f : Fault) : (s.raise f).fb = s.fb := rfl
@[simp] theorem State.raise_keys (s : State) (f : Fault) : (s.raise f).keys = s.keys := rfl
@[simp] theorem State.raise_cfg (s : State) (f : Fault) : (s.raise f).cfg = s.cfg := rfl
@[simp] theorem State.raise_rand (s : State) (f : Fault) : (s.raise f).rand = s.rand := rfl
@[simp] theorem State.raise_draws (s : State) (f : Fault) : (s.raise f).draws = s.draws := rfl
@[simp] theorem State.raise_status (s : State) (f : Fault) : (s.raise f).status = .fault f := rfl
@[simp] theorem State.raise_firstFault (s : State) (f : Fault) : (s.raise f).firstFault = s.firstFault.or (some f) := rfl
@[simp] theorem State.raise_inbox (s : State) (f : Fault) : (s.raise f).inbox = s.inbox := rfl
@[simp] theorem State.raise_schedule (s : State) (f : Fault) : (s.raise f).schedule = s.schedule := rfl

@[simp] theorem State.latchKeys_mem (s : State) (k : BitVec 16) : (s.latchKeys k).mem = s.mem := rfl
@[simp] theorem State.latchKeys_v (s : State) (k : BitVec 16) : (s.latchKeys k).v = s.v := rfl
@[simp] theorem State.latchKeys_i (s : State) (k : BitVec 16) : (s.latchKeys k).i = s.i := rfl
@[simp] theorem State.latchKeys_pc (s : State) (k : BitVec 16) : (s.latchKeys k).pc = s.pc := rfl
@[simp] theorem State.latchKeys_stack (s : State) (k : BitVec 16) : (s.latchKeys k).stack = s.stack := rfl
@[simp] theorem State.latchKeys_dt (s : State) (k : BitVec 16) : (s.latchKeys k).dt = s.dt := rfl
@[simp] theorem State.latchKeys_st (s : State) (k : BitVec 16) : (s.latchKeys k).st = s.st := rfl
@[simp] theorem State.latchKeys_fb (s : State) (k : BitVec 16) : (s.latchKeys k).fb = s.fb := rfl
@[simp] theorem State.latchKeys_keys (s : State) (k : BitVec 16) : (s.latchKeys k).keys = k := rfl
@[simp] theorem State.latchKeys_cfg (s : State) (k : BitVec 16) : (s.latchKeys k).cfg = s.cfg := rfl
@[simp] theorem State.latchKeys_rand (s : State) (k : BitVec 16) : (s.latchKeys k).rand = s.rand := rfl
@[simp] theorem State.latchKeys_draws (s : State) (k : BitVec 16) : (s.latchKeys k).draws = s.draws := rfl
@[simp] theorem State.latchKeys_status (s : State) (k : BitVec 16) : (s.latchKeys k).status = s.status := rfl
@[simp] theorem State.latchKeys_firstFault (s : State) (k : BitVec 16) : (s.latchKeys k).firstFault = s.firstFault := rfl
@[simp] theorem State.latchKeys_inbox (s : State) (k : BitVec 16) : (s.latchKeys k).inbox = s.inbox := rfl
@[simp] theorem State.latchKeys_schedule (s : State) (k : BitVec 16) : (s.latchKeys k).schedule = s.schedule := rfl

@[simp] theorem State.tick_mem (s : State) : (s.tick).mem = s.mem := rfl
@[simp] theorem State.tick_v (s : State) : (s.tick).v = s.v := rfl
@[simp] theorem State.tick_i (s : State) : (s.tick).i = s.i := rfl
@[simp] theorem State.tick_pc (s : State) : (s.tick).pc = s.pc := rfl
@[simp] theorem State.tick_stack (s : State) : (s.tick).stack = s.stack := rfl
@[simp] theorem State.tick_dt (s : State) : (s.tick).dt = countDown s.dt := rfl
@[simp] theorem State.tick_st (s : State) : (s.tick).st = countDown s.st := rfl
@[simp] theorem State.tick_fb (s : State) : (s.tick).fb = s.fb := rfl
@[simp] theorem State.tick_keys (s : State) : (s.tick).keys = s.keys := rfl
@[simp] theorem State.tick_cfg (s : State) : (s.tick).cfg = s.cfg := rfl
@[simp] theorem State.tick_rand (s : State) : (s.tick).rand = s.rand := rfl
@[simp] theorem State.tick_draws (s : State) : (s.tick).draws = s.draws := rfl
@[simp] theorem State.tick_status (s : State) : (s.tick).status = s.status := rfl
@[simp] theorem State.tick_firstFault (s : State) : (s.tick).firstFault = s.firstFault := rfl
@[simp] theorem State.tick_inbox (s : State) : (s.tick).inbox = s.inbox := rfl
@[simp] theorem State.tick_schedule (s : State) : (s.tick).schedule = s.schedule := rfl

@[simp] theorem State.writeResultThenFlag_mem (s : State) (x : Reg) (b : Byte) (c : Bool) : (s.writeResultThenFlag x b c).mem = s.mem := rfl
@[simp] theorem State.writeResultThenFlag_v (s : State) (x : Reg) (b : Byte) (c : Bool) : (s.writeResultThenFlag x b c).v = (s.v.set x b).set VF (flagByte c) := rfl
@[simp] theorem State.writeResultThenFlag_i (s : State) (x : Reg) (b : Byte) (c : Bool) : (s.writeResultThenFlag x b c).i = s.i := rfl
@[simp] theorem State.writeResultThenFlag_pc (s : State) (x : Reg) (b : Byte) (c : Bool) : (s.writeResultThenFlag x b c).pc = s.pc := rfl
@[simp] theorem State.writeResultThenFlag_stack (s : State) (x : Reg) (b : Byte) (c : Bool) : (s.writeResultThenFlag x b c).stack = s.stack := rfl
@[simp] theorem State.writeResultThenFlag_dt (s : State) (x : Reg) (b : Byte) (c : Bool) : (s.writeResultThenFlag x b c).dt = s.dt := rfl
@[simp] theorem State.writeResultThenFlag_st (s : State) (x : Reg) (b : Byte) (c : Bool) : (s.writeResultThenFlag x b c).st = s.st := rfl
@[simp] theorem State.writeResultThenFlag_fb (s : State) (x : Reg) (b : Byte) (c : Bool) : (s.writeResultThenFlag x b c).fb = s.fb := rfl
@[simp] theorem State.writeResultThenFlag_keys (s : State) (x : Reg) (b : Byte) (c : Bool) : (s.writeResultThenFlag x b c).keys = s.keys := rfl
@[simp] theorem State.writeResultThenFlag_cfg (s : State) (x : Reg) (b : Byte) (c : Bool) : (s.writeResultThenFlag x b c).cfg = s.cfg := rfl
@[simp] theorem State.writeResultThenFlag_rand (s : State) (x : Reg) (b : Byte) (c : Bool) : (s.writeResultThenFlag x b c).rand = s.rand := rfl
@[simp] theorem State.writeResultThenFlag_draws (s : State) (x : Reg) (b : Byte) (c : Bool) : (s.writeResultThenFlag x b c).draws = s.draws := rfl
@[simp] theorem State.writeResultThenFlag_status (s : State) (x : Reg) (b : Byte) (c : Bool) : (s.writeResultThenFlag x b c).status = s.status := rfl
@[simp] theorem State.writeResultThenFlag_firstFault (s : State) (x : Reg) (b : Byte) (c : Bool) : (s.writeResultThenFlag x b c).firstFault = s.firstFault := rfl
@[simp] theorem State.writeResultThenFlag_inbox (s : State) (x : Reg) (b : Byte) (c : Bool) : (s.writeResultThenFlag x b c).inbox = s.inbox := rfl
@[simp] theorem State.writeResultThenFlag_schedule (s : State) (x : Reg) (b : Byte) (c : Bool) : (s.writeResultThenFlag x b c).schedule = s.schedule := rfl

@[simp] theorem State.latchRand_mem (s : State) (r : Option Byte) : (s.latchRand r).mem = s.mem := by cases r <;> rfl
@[simp] theorem State.latchRand_v (s : State) (r : Option Byte) : (s.latchRand r).v = s.v := by cases r <;> rfl
@[simp] theorem State.latchRand_i (s : State) (r : Option Byte) : (s.latchRand r).i = s.i := by cases r <;> rfl
@[simp] theorem State.latchRand_pc (s : State) (r : Option Byte) : (s.latchRand r).pc = s.pc := by cases r <;> rfl
@[simp] theorem State.latchRand_stack (s : State) (r : Option Byte) : (s.latchRand r).stack = s.stack := by cases r <;> rfl
@[simp] theorem State.latchRand_dt (s : State) (r : Option Byte) : (s.latchRand r).dt = s.dt := by cases r <;> rfl
@[simp] theorem State.latchRand_st (s : State) (r : Option Byte) : (s.latchRand r).st = s.st := by cases r <;> rfl
@[simp] theorem State.latchRand_fb (s : State) (r : Option Byte) : (s.latchRand r).fb = s.fb := by cases r <;> rfl
@[simp] theorem State.latchRand_keys (s : State) (r : Option Byte) : (s.latchRand r).keys = s.keys := by cases r <;> rfl
@[simp] theorem State.latchRand_cfg (s : State) (r : Option Byte) : (s.latchRand r).cfg = s.cfg := by cases r <;> rfl
@[simp] theorem State.latchRand_status (s : State) (r : Option Byte) : (s.latchRand r).status = s.status := by cases r <;> rfl
@[simp] theorem State.latchRand_firstFault (s : State) (r : Option Byte) : (s.latchRand r).firstFault = s.firstFault := by cases r <;> rfl
@[simp] theorem State.latchRand_inbox (s : State) (r : Option Byte) : (s.latchRand r).inbox = s.inbox := by cases r <;> rfl
@[simp] theorem State.latchRand_schedule (s : State) (r : Option Byte) : (s.latchRand r).schedule = s.schedule := by cases r <;> rfl

@[simp] theorem State.loadBlock_mem (s : State) (x : Reg) : (s.loadBlock x).mem = s.mem := rfl
@[simp] theorem State.loadBlock_v (s : State) (x : Reg) : (s.loadBlock x).v = s.regsFromBlock x := rfl
@[simp] theorem State.loadBlock_i (s : State) (x : Reg) : (s.loadBlock x).i = s.i := rfl
@[simp] theorem State.loadBlock_pc (s : State) (x : Reg) : (s.loadBlock x).pc = s.pc := rfl
@[simp] theorem State.loadBlock_stack (s : State) (x : Reg) : (s.loadBlock x).stack = s.stack := rfl
@[simp] theorem State.loadBlock_dt (s : State) (x : Reg) : (s.loadBlock x).dt = s.dt := rfl
@[simp] theorem State.loadBlock_st (s : State) (x : Reg) : (s.loadBlock x).st = s.st := rfl
@[simp] theorem State.loadBlock_fb (s : State) (x : Reg) : (s.loadBlock x).fb = s.fb := rfl
@[simp] theorem State.loadBlock_keys (s : State) (x : Reg) : (s.loadBlock x).keys = s.keys := rfl
@[simp] theorem State.loadBlock_cfg (s : State) (x : Reg) : (s.loadBlock x).cfg = s.cfg := rfl
@[simp] theorem State.loadBlock_rand (s : State) (x : Reg) : (s.loadBlock x).rand = s.rand := rfl
@[simp] theorem State.loadBlock_draws (s : State) (x : Reg) : (s.loadBlock x).draws = s.draws := rfl
@[simp] theorem State.loadBlock_status (s : State) (x : Reg) : (s.loadBlock x).status = s.status := rfl
@[simp] theorem State.loadBlock_firstFault (s : State) (x : Reg) : (s.loadBlock x).firstFault = s.firstFault := rfl
@[simp] theorem State.loadBlock_inbox (s : State) (x : Reg) : (s.loadBlock x).inbox = s.inbox := rfl
@[simp] theorem State.loadBlock_schedule (s : State) (x : Reg) : (s.loadBlock x).schedule = s.schedule := rfl

@[simp] theorem State.flagIndexOverflow_mem (s : State) : (s.flagIndexOverflow).mem = s.mem := by unfold State.flagIndexOverflow; split <;> rfl
@[simp] theorem State.flagIndexOverflow_i (s : State) : (s.flagIndexOverflow).i = s.i := by unfold State.flagIndexOverflow; split <;> rfl
@[simp] theorem State.flagIndexOverflow_pc (s : State) : (s.flagIndexOverflow).pc = s.pc := by unfold State.flagIndexOverflow; split <;> rfl
@[simp] theorem State.flagIndexOverflow_stack (s : State) : (s.flagIndexOverflow).stack = s.stack := by unfold State.flagIndexOverflow; split <;> rfl
@[simp] theorem State.flagIndexOverflow_dt (s : State) : (s.flagIndexOverflow).dt = s.dt := by unfold State.flagIndexOverflow; split <;> rfl
@[simp] theorem State.flagIndexOverflow_st (s : State) : (s.flagIndexOverflow).st = s.st := by unfold State.flagIndexOverflow; split <;> rfl
@[simp] theorem State.flagIndexOverflow_fb (s : State) : (s.flagIndexOverflow).fb = s.fb := by unfold State.flagIndexOverflow; split <;> rfl
@[simp] theorem State.flagIndexOverflow_keys (s : State) : (s.flagIndexOverflow).keys = s.keys := by unfold State.flagIndexOverflow; split <;> rfl
@[simp] theorem State.flagIndexOverflow_cfg (s : State) : (s.flagIndexOverflow).cfg = s.cfg := by unfold State.flagIndexOverflow; split <;> rfl
@[simp] theorem State.flagIndexOverflow_rand (s : State) : (s.flagIndexOverflow).rand = s.rand := by unfold State.flagIndexOverflow; split <;> rfl
@[simp] theorem State.flagIndexOverflow_draws (s : State) : (s.flagIndexOverflow).draws = s.draws := by unfold State.flagIndexOverflow; split <;> rfl
@[simp] theorem State.flagIndexOverflow_status (s : State) : (s.flagIndexOverflow).status = s.status := by unfold State.flagIndexOverflow; split <;> rfl
@[simp] theorem State.flagIndexOverflow_firstFault (s : State) : (s.flagIndexOverflow).firstFault = s.firstFault := by unfold State.flagIndexOverflow; split <;> rfl
@[simp] theorem State.flagIndexOverflow_inbox (s : State) : (s.flagIndexOverflow).inbox = s.inbox := by unfold State.flagIndexOverflow; split <;> rfl
@[simp] theorem State.flagIndexOverflow_schedule (s : State) : (s.flagIndexOverflow).schedule = s.schedule := by unfold State.flagIndexOverflow; split <;> rfl

@[simp] theorem State.memWriteList_v (s : State) (a : Nat) (bs : List Byte) : (s.memWriteList a bs).v = s.v := by
  induction bs generalizing s a with
  | nil => rfl
  | cons b bs ih => simp [State.memWriteList, ih]
@[simp] theorem State.memWriteList_i (s : State) (a : Nat) (bs : List Byte) : (s.memWriteList a bs).i = s.i := by
  induction bs generalizing s a with
  | nil => rfl
  | cons b bs ih => simp [State.memWriteList, ih]
@[simp] theorem State.memWriteList_pc (s : State) (a : Nat) (bs : List Byte) : (s.memWriteList a bs).pc = s.pc := by
  induction bs generalizing s a with
  | nil => rfl
  | cons b bs ih => simp [State.memWriteList, ih]
@[simp] theorem State.memWriteList_stack (s : State) (a : Nat) (bs : List Byte) : (s.memWriteList a bs).stack = s.stack := by
  induction bs generalizing s a with
  | nil => rfl
  | cons b bs ih => simp [State.memWriteList, ih]
@[simp] theorem State.memWriteList_dt (s : State) (a : Nat) (bs : List Byte) : (s.memWriteList a bs).dt = s.dt := by
  induction bs generalizing s a with
  | nil => rfl
  | cons b bs ih => simp [State.memWriteList, ih]
@[simp] theorem State.memWriteList_st (s : State) (a : Nat) (bs : List Byte) : (s.memWriteList a bs).st = s.st := by
  induction bs generalizing s a with
  | nil => rfl
  | cons b bs ih => simp [State.memWriteList, ih]
@[simp] theorem State.memWriteList_fb (s : State) (a : Nat) (bs : List Byte) : (s.memWriteList a bs).fb = s.fb := by
  induction bs generalizing s a with
  | nil => rfl
  | cons b bs ih => simp [State.memWriteList, ih]
@[simp] theorem State.memWriteList_keys (s : State) (a : Nat) (bs : List Byte) : (s.memWriteList a bs).keys = s.keys := by
  induction bs generalizing s a with
  | nil => rfl
  | cons b bs ih => simp [State.memWriteList, ih]
@[simp] theorem State.memWriteList_cfg (s : State) (a : Nat) (bs : List Byte) : (s.memWriteList a bs).cfg = s.cfg := by
  induction bs generalizing s a with
  | nil => rfl
  | cons b bs ih => simp [State.memWriteList, ih]
@[simp] theorem State.memWriteList_rand (s : State) (a : Nat) (bs : List Byte) : (s.memWriteList a bs).rand = s.rand := by
  induction bs generalizing s a with
  | nil => rfl
  | cons b bs ih => simp [State.memWriteList, ih]
@[simp] theorem State.memWriteList_draws (s : State) (a : Nat) (bs : List Byte) : (s.memWriteList a bs).draws = s.draws := by
  induction bs generalizing s a with
  | nil => rfl
  | cons b bs ih => simp [State.memWriteList, ih]
@[simp] theorem State.memWriteList_status (s : State) (a : Nat) (bs : List Byte) : (s.memWriteList a bs).status = s.status := by
  induction bs generalizing s a with
  | nil => rfl
  | cons b bs ih => simp [State.memWriteList, ih]
@[simp] theorem State.memWriteList_firstFault (s : State) (a : Nat) (bs : List Byte) : (s.memWriteList a bs).firstFault = s.firstFault := by
  induction bs generalizing s a with
  | nil => rfl
  | cons b bs ih => simp [State.memWriteList, ih]
@[simp] theorem State.memWriteList_inbox (s : State) (a : Nat) (bs : List Byte) : (s.memWriteList a bs).inbox = s.inbox := by
  induction bs generalizing s a with
  | nil => rfl
  | cons b bs ih => simp [State.memWriteList, ih]
@[simp] theorem State.memWriteList_schedule (s : State) (a : Nat) (bs : List Byte) : (s.memWriteList a bs).schedule = s.schedule := by
  induction bs generalizing s a with
  | nil => rfl
  | cons b bs ih => simp [State.memWriteList, ih]

end Sys2Proof.Machine
end

