-- ==== Sys2Proof/Laws/Ops.lean ====
section
/-! SUPPORT. One lemma per shared operation, saying what it does: registers, memory blocks, the ways a CYCLE ends, the timers,
the key scan and the loops. Later proofs cite these and do not unfold the operations. -/

namespace Sys2Proof.Machine

/-! Registers. -/

@[simp] theorem State.readV_writeV (s : State) (x r : Reg) (b : Byte) :
    (s.writeV x b).readV r = if r = x then b else s.readV r := by
  simp only [State.readV, State.writeV, Fin.getElem_fin, Vector.getElem_set]
  by_cases h : r = x
  · simp [h]
  · have : x.val ≠ r.val := fun e => h (Fin.ext e.symm)
    simp [h, this]

/-- A register read depends on the registers alone. -/
@[simp] theorem State.readV_endAt (s : State) (a : Addr) (r : Reg) : (s.endAt a).readV r = s.readV r := rfl

@[simp] theorem State.readV_setIndex (s : State) (w : Word) (r : Reg) : (s.setIndex w).readV r = s.readV r := rfl

/-- A memory read depends on memory alone. -/
@[simp] theorem State.memRead_endAt (s : State) (a : Addr) (b : Nat) : (s.endAt a).memRead b = s.memRead b := rfl

/-- The flag remains when it and the result meet in VF (R120). -/
@[simp] theorem State.readV_writeResultThenFlag (s : State) (x r : Reg) (b : Byte) (c : Bool) :
    (s.writeResultThenFlag x b c).readV r = if r = VF then flagByte c else if r = x then b else s.readV r := by
  simp only [State.writeResultThenFlag, State.readV_writeV]

theorem State.readV_flagIndexOverflow (s : State) (r : Reg) :
    s.flagIndexOverflow.readV r = if s.cfg.addIndexMode = .setVf ∧ r = VF then 1 else s.readV r := by
  unfold State.flagIndexOverflow
  split <;> simp [*]

theorem State.readV_eq_of_v_eq {s t : State} (h : t.v = s.v) (r : Reg) : t.readV r = s.readV r := by
  simp [State.readV, h]

theorem State.memRead_eq_of_mem_eq {s t : State} (h : t.mem = s.mem) (a : Nat) : t.memRead a = s.memRead a := by
  simp [State.memRead, h]

theorem flagByte_toNat (c : Bool) : (flagByte c).toNat = if c then 1 else 0 := by
  cases c <;> rfl

/-! Memory. -/

/-- A store seen by any later read (R52). -/
theorem State.memRead_memWrite {s : State} (hm : s.mem.wf = true) (a b : Nat) (v : Byte) :
    (s.memWrite a v).memRead b = if b % 4096 = a % 4096 then v else s.memRead b := by
  simp only [State.memRead, State.memWrite]
  split
  · next h => rw [h, Memory.read_write_self _ _ hm]
  · next h => exact Memory.read_write_ne _ _ h

theorem State.memWrite_wf {s : State} (hm : s.mem.wf = true) (a : Nat) (v : Byte) : (s.memWrite a v).mem.wf = true :=
  Memory.wf_write v (Nat.mod_lt _ (by decide)) hm

theorem State.memWriteList_wf {s : State} (hm : s.mem.wf = true) (a : Nat) (bs : List Byte) :
    (s.memWriteList a bs).mem.wf = true := by
  induction bs generalizing s a with
  | nil => exact hm
  | cons b bs ih => exact ih (State.memWrite_wf hm a b) (a + 1)

/-- Outside the stored bytes a block store changes nothing, whatever the list. -/
theorem State.memRead_memWriteList_outside (s : State) (a : Nat) (bs : List Byte) (b : Nat)
    (h : ¬ InBlock a bs.length b) : (s.memWriteList a bs).memRead b = s.memRead b := by
  induction bs generalizing s a with
  | nil => rfl
  | cons c bs ih =>
    rw [State.memWriteList, ih]
    · simp only [State.memRead, State.memWrite]
      refine Memory.read_write_ne _ _ fun e => h ⟨0, by simp, by simpa using e⟩
    · rintro ⟨k, hk, e⟩
      exact h ⟨k + 1, by simp; omega, by rw [e]; congr 1; omega⟩

/-- A block store of at most 4096 bytes is read back byte for byte. -/
theorem State.memRead_memWriteList_inside {s : State} (hm : s.mem.wf = true) (a : Nat) (bs : List Byte)
    (hlen : bs.length ≤ 4096) (k : Nat) (hk : k < bs.length) : (s.memWriteList a bs).memRead (a + k) = bs[k] := by
  induction bs generalizing s a k with
  | nil => simp at hk
  | cons c bs ih =>
    rw [State.memWriteList]
    cases k with
    | zero =>
      rw [State.memRead_memWriteList_outside, State.memRead_memWrite hm]
      · simp
      · rintro ⟨j, hj, e⟩
        simp only [List.length_cons] at hlen
        omega
    | succ k =>
      have h := ih (State.memWrite_wf hm a c) (a + 1) (by simp at hlen; omega) k (by simpa using hk)
      simpa [show a + 1 + k = a + (k + 1) by omega] using h

theorem decimalDigits_length (b : Byte) : (decimalDigits b).length = 3 := rfl

theorem State.blockOfRegs_length (s : State) (x : Reg) : (s.blockOfRegs x).length = x.val + 1 := by
  simp [State.blockOfRegs]

theorem State.blockOfRegs_getElem (s : State) (x : Reg) (k : Nat) (h : k < (s.blockOfRegs x).length) :
    (s.blockOfRegs x)[k] =
      s.readV ⟨k, by rw [State.blockOfRegs_length] at h; omega⟩ := by
  simp [State.blockOfRegs, State.readV]

theorem State.readV_loadBlock (s : State) (x r : Reg) :
    (s.loadBlock x).readV r = if r ≤ x then s.memRead (s.indexAddr r.val) else s.readV r := by
  simp [State.loadBlock, State.regsFromBlock, State.readV]

/-! The ways a CYCLE ends. -/

theorem advance_eq (s : State) : advance s = .next (s.endAt s.nextPc) := rfl

theorem jumpTo_eq (a : Addr) (s : State) : jumpTo a s = .next (s.endAt a) := rfl

theorem skipIf_eq (c : Bool) (s : State) : skipIf c s = .next (s.endAt (if c then s.skipPc else s.nextPc)) := rfl

theorem takeFault_eq (f : Fault) (s : State) : takeFault f s = .next (s.raise f) := rfl

theorem nextPc_toNat (s : State) : s.nextPc.toNat = (s.pc.toNat + 2) % 4096 := by
  simp [State.nextPc, BitVec.toNat_add]

theorem skipPc_toNat (s : State) : s.skipPc.toNat = (s.pc.toNat + 4) % 4096 := by
  simp [State.skipPc, BitVec.toNat_add]

/-- An unknown word changes PC, when it is stepped over, and the record of the fault, and nothing else (R221). -/
theorem unknownOpcode_eq (w : Word) (s : State) :
    unknownOpcode w s = .next (({ s with pc := if s.cfg.allowUnknown then s.nextPc else s.pc } : State).raise
      (.unknownOpcode w s.pc)) := by
  unfold unknownOpcode takeFault
  split <;> rfl

/-! Timers, keys, sprite rows. -/

theorem countDown_toNat (b : Byte) : (countDown b).toNat = b.toNat - 1 := by
  unfold countDown
  split
  · next h => simp [h]
  · next h =>
    have : b.toNat ≠ 0 := fun e => h (BitVec.eq_of_toNat_eq (by simpa using e))
    have := b.isLt
    rw [BitVec.toNat_sub]
    simp
    omega

theorem leastKeyFrom_some {keys : BitVec 16} {start n k : Nat} (h : leastKeyFrom keys start n = some k) :
    start ≤ k ∧ k < start + n ∧ keys.getLsbD k = true ∧ ∀ j, start ≤ j → j < k → keys.getLsbD j = false := by
  induction n generalizing start with
  | zero => simp [leastKeyFrom] at h
  | succ n ih =>
    rw [leastKeyFrom] at h
    split at h
    · next hk =>
      obtain rfl : start = k := by simpa using h
      exact ⟨le_refl _, by omega, hk, fun j h1 h2 => by omega⟩
    · next hk =>
      obtain ⟨h1, h2, h3, h4⟩ := ih h
      refine ⟨by omega, by omega, h3, fun j hj hjk => ?_⟩
      rcases Nat.lt_or_eq_of_le hj with hlt | rfl
      · exact h4 j hlt hjk
      · simpa using hk

theorem leastKeyFrom_none {keys : BitVec 16} {start n : Nat} (h : leastKeyFrom keys start n = none) (j : Nat)
    (h1 : start ≤ j) (h2 : j < start + n) : keys.getLsbD j = false := by
  induction n generalizing start with
  | zero => omega
  | succ n ih =>
    rw [leastKeyFrom] at h
    split at h
    · simp at h
    · next hk =>
      rcases Nat.lt_or_eq_of_le h1 with hlt | rfl
      · exact ih h hlt (by omega)
      · simpa using hk

/-- Column `c` of a sprite row: the bit `7 - (c - px)` of the byte, inside its 8 columns and the screen (R160, R162). -/
theorem spriteRow_getLsbD (px : Nat) (b : Byte) (c : Nat) (hc : c < 64) :
    (spriteRow px b).getLsbD c = (decide (px ≤ c ∧ c ≤ px + 7) && b.getLsbD (7 - (c - px))) := by
  simp only [spriteRow, BitVec.getLsbD_shiftLeft, BitVec.getLsbD_setWidth, BitVec.getLsbD_reverse, BitVec.getMsbD]
  by_cases h1 : px ≤ c
  · by_cases h2 : c ≤ px + 7
    · have e1 : c - px < 64 := by omega
      have e2 : c - px < 8 := by omega
      simp [hc, h1, h2, e1, e2, Nat.not_lt.mpr h1]
    · have e2 : ¬ c - px < 8 := by omega
      simp [h2, e2]
  · simp [h1, Nat.lt_of_not_le h1]

end Sys2Proof.Machine
end

