-- ==== Sys2Proof/Laws/Draw.lean ====
section
/-! SUPPORT. What the draw loop of 43_display.md R163 does, pixel by pixel. -/

namespace Sys2Proof.Machine

/-- Row `r` of the sprite placed with its top at `py`, when it has `m` rows from its row `k` on. -/
def rowOfSprite (s : State) (px py m k r : Nat) : BitVec 64 :=
  if py + k ≤ r ∧ r < py + k + m then spriteRow px (s.memRead (s.indexAddr (r - py))) else 0

theorem rowOfSprite_zero (s : State) (px py k r : Nat) : rowOfSprite s px py 0 k r = 0 := by
  simp only [rowOfSprite]
  split
  · omega
  · rfl

theorem rowOfSprite_first (s : State) (px py m k : Nat) :
    rowOfSprite s px py (m + 1) k (py + k) = spriteRow px (s.memRead (s.indexAddr k)) := by
  simp [rowOfSprite]

theorem rowOfSprite_rest_first (s : State) (px py m k : Nat) : rowOfSprite s px py m (k + 1) (py + k) = 0 := by
  simp only [rowOfSprite]
  split
  · omega
  · rfl

theorem rowOfSprite_rest (s : State) (px py m k r : Nat) (h : r ≠ py + k) :
    rowOfSprite s px py m (k + 1) r = rowOfSprite s px py (m + 1) k r := by
  simp only [rowOfSprite]
  congr 1
  apply propext
  omega

/-- Every row is XORed with the sprite's row (clipped below row 31). -/
theorem State.drawRows_row (s : State) (px py m k : Nat) (fb : Vector (BitVec 64) 32) (hit : Bool) (r : Nat) (hr : r < 32) :
    (s.drawRows px py m k fb hit).1[r] = fb[r] ^^^ rowOfSprite s px py m k r := by
  induction m generalizing k fb hit with
  | zero => simp [State.drawRows, rowOfSprite_zero]
  | succ m ih =>
    rw [State.drawRows]
    split
    · next h =>
      rw [ih, Vector.getElem_set]
      split
      · next e => subst e; rw [rowOfSprite_first, rowOfSprite_rest_first]; simp
      · next e => rw [rowOfSprite_rest _ _ _ _ _ _ (Ne.symm e)]
    · next h =>
      have : rowOfSprite s px py (m + 1) k r = 0 := by
        simp only [rowOfSprite]
        split
        · omega
        · rfl
      simp [this]

/-- The collision flag: set before, or some row of the screen shares a set bit with the sprite's row. -/
theorem State.drawRows_hit (s : State) (px py m k : Nat) (fb : Vector (BitVec 64) 32) (hit : Bool) :
    (s.drawRows px py m k fb hit).2 = true ↔
      hit = true ∨ ∃ r, ∃ hr : r < 32, fb[r] &&& rowOfSprite s px py m k r ≠ 0 := by
  induction m generalizing k fb hit with
  | zero => simp [State.drawRows, rowOfSprite_zero]
  | succ m ih =>
    rw [State.drawRows]
    split
    · next h =>
      rw [ih, Bool.or_eq_true, bne_iff_ne]
      constructor
      · rintro ((h1 | h2) | ⟨r, hr, h3⟩)
        · exact .inl h1
        · exact .inr ⟨py + k, h, by rwa [rowOfSprite_first]⟩
        · by_cases e : r = py + k
          · subst e; simp [rowOfSprite_rest_first] at h3
          · rw [Vector.getElem_set_ne _ _ (Ne.symm e), rowOfSprite_rest _ _ _ _ _ _ e] at h3
            exact .inr ⟨r, hr, h3⟩
      · rintro (h1 | ⟨r, hr, h3⟩)
        · exact .inl (.inl h1)
        · by_cases e : r = py + k
          · subst e; rw [rowOfSprite_first] at h3; exact .inl (.inr h3)
          · refine .inr ⟨r, hr, ?_⟩
            rwa [Vector.getElem_set_ne _ _ (Ne.symm e), rowOfSprite_rest _ _ _ _ _ _ e]
    · next h =>
      constructor
      · exact .inl
      · rintro (h1 | ⟨r, hr, h3⟩)
        · exact h1
        · have : rowOfSprite s px py (m + 1) k r = 0 := by
            simp only [rowOfSprite]
            split
            · omega
            · rfl
          simp [this] at h3

/-- Two 64-bit rows share a set bit when some column has it in both. -/
theorem and_ne_zero_iff (a b : BitVec 64) : a &&& b ≠ 0 ↔ ∃ c, c < 64 ∧ a.getLsbD c = true ∧ b.getLsbD c = true := by
  constructor
  · intro h
    by_contra hc
    apply h
    apply BitVec.eq_of_getLsbD_eq
    intro c hlt
    simp only [not_exists, not_and] at hc
    have := hc c hlt
    cases ha : a.getLsbD c <;> simp_all
  · rintro ⟨c, hlt, ha, hb⟩ h
    have := congrArg (fun v => v.getLsbD c) h
    simp [ha, hb] at this

theorem State.pixel_of_lt (s : State) (r c : Nat) (hr : r < 32) : s.pixel r c = s.fb[r].getLsbD c := by
  simp [State.pixel, hr]

/-- A pixel of the sprite's row at the place `Dxyn` puts it is a pixel of the sprite (R163). -/
theorem rowOfSprite_getLsbD (s : State) (x y : Reg) (n : BitVec 4) (r c : Nat) (hc : c < 64) :
    (rowOfSprite s (s.spriteColumn x) (s.spriteTop y) n.toNat 0 r).getLsbD c = true ↔ SpritePixel s x y n r c := by
  simp only [rowOfSprite, SpritePixel]
  split
  · next h =>
    rw [spriteRow_getLsbD _ _ _ hc]
    simp only [Bool.and_eq_true, decide_eq_true_eq]
    constructor
    · rintro ⟨⟨h1, h2⟩, h3⟩
      exact ⟨by omega, by omega, h1, h2, h3⟩
    · rintro ⟨_, _, h1, h2, h3⟩
      exact ⟨⟨h1, h2⟩, h3⟩
  · next h =>
    constructor
    · intro h1; simp at h1
    · rintro ⟨h1, h2, _⟩; omega

end Sys2Proof.Machine
end

