-- ==== Sys2Proof/Laws/Events.lean ====
section
/-! SUPPORT. What each event can do, said once: the ends of a CYCLE, the loops of RESET, the next event and RAND. -/

namespace Sys2Proof.Machine

/-! One field changes. -/

/-- A block store changes memory and nothing else. -/
theorem State.memWriteList_only_mem (s : State) (a : Nat) (bs : List Byte) :
    s.memWriteList a bs = { s with mem := (s.memWriteList a bs).mem } := by
  induction bs generalizing s a with
  | nil => rfl
  | cons b bs ih => rw [State.memWriteList, ih]; rfl

/-- `inject_ram` changes memory and nothing else (R254). -/
theorem State.injectRam_only_mem (s : State) (l : List (Nat × Nat)) :
    s.injectRam l = { s with mem := (s.injectRam l).mem } := by
  induction l generalizing s with
  | nil => rfl
  | cons p l ih => obtain ⟨a, b⟩ := p; rw [State.injectRam, ih]; rfl

theorem State.only_mem_trans {s t u : State} (h1 : t = { s with mem := t.mem }) (h2 : u = { t with mem := u.mem }) :
    u = { s with mem := u.mem } := by
  cases s; cases t; cases u
  simp only [State.mk.injEq] at *
  simp_all

/-- The loading steps of RESET change memory and nothing else (R252 to R254). -/
theorem State.loaded_only_mem (s : State) (a : ResetArgs) :
    s.loaded a = { s.zeroed a.cfg with mem := (s.loaded a).mem } :=
  State.only_mem_trans
    (State.only_mem_trans (State.memWriteList_only_mem _ 0x000 a.font) (State.memWriteList_only_mem _ 0x200 a.image))
    (State.injectRam_only_mem _ a.inject)

/-- Taking the next event changes the inbox and nothing else. -/
theorem State.nextEvent_only_inbox (s : State) : s.nextEvent.2 = { s with inbox := s.nextEvent.2.inbox } := by
  unfold State.nextEvent
  split
  · rfl
  · split <;> rfl

/-- Latching RAND changes RAND and the count of draws and nothing else (R33). -/
theorem State.latchRand_only_rand (s : State) (r : Option Byte) :
    s.latchRand r = { s with rand := (s.latchRand r).rand, draws := (s.latchRand r).draws } := by
  cases r <;> rfl

@[simp] theorem State.fetchWord_latchRand (s : State) (r : Option Byte) : (s.latchRand r).fetchWord = s.fetchWord := by
  cases r <;> rfl

/-! Memory. -/

theorem State.injectRam_wf {s : State} (hm : s.mem.wf = true) (l : List (Nat × Nat)) : (s.injectRam l).mem.wf = true := by
  induction l generalizing s with
  | nil => exact hm
  | cons p l ih => obtain ⟨a, b⟩ := p; exact ih (State.memWrite_wf hm _ _)

theorem State.loaded_wf (s : State) (a : ResetArgs) : (s.loaded a).mem.wf = true :=
  State.injectRam_wf (State.memWriteList_wf (State.memWriteList_wf rfl _ _) _ _) _

/-- A cell that no pair names keeps its value. -/
theorem State.memRead_injectRam_other {s : State} (l : List (Nat × Nat)) (c : Nat)
    (h : ∀ p ∈ l, p.1 % 4096 ≠ c % 4096) : (s.injectRam l).memRead c = s.memRead c := by
  induction l generalizing s with
  | nil => rfl
  | cons p l ih =>
    obtain ⟨a, b⟩ := p
    rw [State.injectRam, ih fun p hp => h p (List.mem_cons_of_mem _ hp)]
    exact Memory.read_write_ne _ _ (Ne.symm (h (a, b) (List.mem_cons_self ..)))

/-- Above the font an unlisted cell reads as 0 (R51). -/
theorem background_above_font (a : Nat) (h : 80 ≤ a) : background a = 0 := by
  unfold background
  rw [List.getD_eq_getElem?_getD, List.getElem?_eq_none (show defaultFont.length ≤ a from h)]
  rfl

/-! The ends of a CYCLE. -/

theorem State.leastKey_eq_none_iff (s : State) : s.leastKey = none ↔ s.keys = 0 := by
  constructor
  · intro h
    apply BitVec.eq_of_getLsbD_eq
    intro j hj
    simpa using leastKeyFrom_none h j (Nat.zero_le _) (by simpa using hj)
  · intro h
    cases e : s.leastKey with
    | none => rfl
    | some k =>
      have := (leastKeyFrom_some e).2.2.1
      rw [h] at this
      simp at this

/-- The three ends of an instruction: OK with no new fault, WAIT_KEY with nothing changed, STACK_UNDERFLOW with nothing changed. -/
theorem exec_ends {i : Instr} {s t : State} (h : exec i s = .next t) :
    (t.status = .ok ∧ t.firstFault = s.firstFault) ∨
    (t = { s with status := .waitKey } ∧ (∃ x, i = .ldVxK x) ∧ s.keys = 0) ∨
    (t = s.raise (.stackUnderflow s.pc) ∧ i = .ret ∧ s.stack = []) := by
  cases i
  case ret =>
    simp only [exec, execRet] at h
    split at h
    · next e => injection h with h; subst h; exact .inr (.inr ⟨rfl, rfl, by simpa using e⟩)
    · injection h with h; subst h; exact .inl ⟨rfl, rfl⟩
  case ldVxK x =>
    simp only [exec, execLdVxK] at h
    split at h
    · next e => injection h with h; subst h; exact .inr (.inl ⟨rfl, ⟨x, rfl⟩, (State.leastKey_eq_none_iff s).mp e⟩)
    · injection h with h; subst h; exact .inl ⟨rfl, rfl⟩
  case addI x =>
    simp only [exec, execAddI] at h
    split at h <;> (injection h with h; subst h; exact .inl ⟨rfl, by simp⟩)
  all_goals (injection h with h; subst h; exact .inl ⟨rfl, by simp⟩)

/-- A CYCLE executes the decoded instruction, or reports an unknown word (R221, R225). -/
theorem cycle_cases {s t : State} (h : cycle s = .next t) :
    (∃ i, decodeWord s.fetchWord = .ok i ∧ exec i s = .next t) ∨
    ((∃ e, decodeWord s.fetchWord = .error e) ∧
      t = ({ s with pc := if s.cfg.allowUnknown then s.nextPc else s.pc } : State).raise
        (.unknownOpcode s.fetchWord s.pc)) := by
  unfold cycle at h
  split at h
  · next i hi => exact .inl ⟨i, hi, h⟩
  · next e he => rw [unknownOpcode_eq] at h; injection h with h; exact .inr ⟨⟨e, he⟩, h.symm⟩

/-! RESET's arguments and the host's runs. -/

theorem ResetArgs.problem_eq_none_iff (a : ResetArgs) : a.problem = none ↔ a.ok := by
  unfold ResetArgs.problem ResetArgs.ok
  constructor
  · intro h
    split at h; · cases h
    split at h; · cases h
    split at h; · cases h
    split at h; · cases h
    next h1 h2 h3 h4 =>
    refine ⟨by simpa using h1, by omega, fun p hp => ?_, by simpa using h4⟩
    by_contra hc
    refine h3 (List.any_eq_true.mpr ⟨p, hp, ?_⟩)
    simp
    omega
  · rintro ⟨h1, h2, h3, h4⟩
    rw [if_neg (by simpa using h1), if_neg (by omega), if_neg, if_neg (by simpa using h4)]
    rw [List.any_eq_true]
    rintro ⟨p, hp, h⟩
    have := h3 p hp
    simp at h
    omega

theorem resetEvent_next {a : ResetArgs} {s t : State} (h : applyEvent (.reset a) s = .next t) :
    t = s.loaded a ∧ a.ok := by
  simp only [applyEvent, resetEvent] at h
  split at h
  · cases h
  · next e => injection h with h; exact ⟨h.symm, (ResetArgs.problem_eq_none_iff a).mp e⟩

/-- One more step of a run, of any machine. -/
theorem run_succ_of_step (M : Host.Core) (k : Nat) {s t : M.State} (h : M.step s = .next t) :
    M.run (k + 1) s = M.run k t := by
  rw [Host.Core.run, h]

/-- One more step of a run. -/
theorem core_run_next {s t : State} (k : Nat) (h : step s = .next t) : core.run (k + 1) s = core.run k t :=
  run_succ_of_step core k h

end Sys2Proof.Machine
end

