-- ==== Sys2Proof/Laws/PerInstr.lean ====
section
/-! SUPPORT. One lemma per constructor of Instr: the encoded word selects the instruction's own row of the dispatch table
(30_encoding.md R74). -/

namespace Sys2Proof.Laws

theorem selects_F000 {m : String} {v w : Word} (h : w.toNat / 4096 * 4096 = v.toNat) :
    (⟨m, 0xF000, v⟩ : OpcodeRow).selects w = true :=
  beq_iff_eq.mpr (BitVec.eq_of_toNat_eq ((and_F000_toNat w).trans h))

theorem selects_F00F {m : String} {v w : Word} (h : w.toNat / 4096 * 4096 + w.toNat % 16 = v.toNat) :
    (⟨m, 0xF00F, v⟩ : OpcodeRow).selects w = true :=
  beq_iff_eq.mpr (BitVec.eq_of_toNat_eq ((and_F00F_toNat w).trans h))

theorem selects_F0FF {m : String} {v w : Word} (h : w.toNat / 4096 * 4096 + w.toNat % 256 = v.toNat) :
    (⟨m, 0xF0FF, v⟩ : OpcodeRow).selects w = true :=
  beq_iff_eq.mpr (BitVec.eq_of_toNat_eq ((and_F0FF_toNat w).trans h))

/-- The row of the instruction's mnemonic selects its encoded word. -/
def FitsRow.Statement (i : Instr) : Prop :=
  ∃ r ∈ opcodeTable, r.mnemonic = i.mnemonic ∧ r.selects (encode i) = true

theorem FitsRow.cls : FitsRow.Statement .cls :=
  ⟨⟨"CLS", 0xFFFF, 0x00E0⟩, by decide, rfl, by decide⟩

theorem FitsRow.ret : FitsRow.Statement .ret :=
  ⟨⟨"RET", 0xFFFF, 0x00EE⟩, by decide, rfl, by decide⟩

theorem FitsRow.jp (nnn : Addr) : FitsRow.Statement (.jp nnn) :=
  ⟨⟨"JP_nnn", 0xF000, 0x1000⟩, by decide, rfl, selects_F000 (by
    have h1 := nnn.isLt
    rw [encode, formNNN_toNat]
    simp
    omega)⟩

theorem FitsRow.call (nnn : Addr) : FitsRow.Statement (.call nnn) :=
  ⟨⟨"CALL_nnn", 0xF000, 0x2000⟩, by decide, rfl, selects_F000 (by
    have h1 := nnn.isLt
    rw [encode, formNNN_toNat]
    simp
    omega)⟩

theorem FitsRow.seImm (x : Reg) (nn : Byte) : FitsRow.Statement (.seImm x nn) :=
  ⟨⟨"SE_Vx__nn", 0xF000, 0x3000⟩, by decide, rfl, selects_F000 (by
    have h1 := nn.isLt
    have h2 := x.isLt
    rw [encode, formXNN_toNat]
    simp
    omega)⟩

theorem FitsRow.sneImm (x : Reg) (nn : Byte) : FitsRow.Statement (.sneImm x nn) :=
  ⟨⟨"SNE_Vx__nn", 0xF000, 0x4000⟩, by decide, rfl, selects_F000 (by
    have h1 := nn.isLt
    have h2 := x.isLt
    rw [encode, formXNN_toNat]
    simp
    omega)⟩

theorem FitsRow.seReg (x y : Reg) : FitsRow.Statement (.seReg x y) :=
  ⟨⟨"SE_Vx__Vy", 0xF00F, 0x5000⟩, by decide, rfl, selects_F00F (by
    have h2 := x.isLt
    have h3 := y.isLt
    rw [encode, formXYN_toNat]
    simp
    omega)⟩

theorem FitsRow.ldImm (x : Reg) (nn : Byte) : FitsRow.Statement (.ldImm x nn) :=
  ⟨⟨"LD_Vx__nn", 0xF000, 0x6000⟩, by decide, rfl, selects_F000 (by
    have h1 := nn.isLt
    have h2 := x.isLt
    rw [encode, formXNN_toNat]
    simp
    omega)⟩

theorem FitsRow.addImm (x : Reg) (nn : Byte) : FitsRow.Statement (.addImm x nn) :=
  ⟨⟨"ADD_Vx__nn", 0xF000, 0x7000⟩, by decide, rfl, selects_F000 (by
    have h1 := nn.isLt
    have h2 := x.isLt
    rw [encode, formXNN_toNat]
    simp
    omega)⟩

theorem FitsRow.ldReg (x y : Reg) : FitsRow.Statement (.ldReg x y) :=
  ⟨⟨"LD_Vx__Vy", 0xF00F, 0x8000⟩, by decide, rfl, selects_F00F (by
    have h2 := x.isLt
    have h3 := y.isLt
    rw [encode, formXYN_toNat]
    simp
    omega)⟩

theorem FitsRow.orReg (x y : Reg) : FitsRow.Statement (.orReg x y) :=
  ⟨⟨"OR_Vx__Vy", 0xF00F, 0x8001⟩, by decide, rfl, selects_F00F (by
    have h2 := x.isLt
    have h3 := y.isLt
    rw [encode, formXYN_toNat]
    simp
    omega)⟩

theorem FitsRow.andReg (x y : Reg) : FitsRow.Statement (.andReg x y) :=
  ⟨⟨"AND_Vx__Vy", 0xF00F, 0x8002⟩, by decide, rfl, selects_F00F (by
    have h2 := x.isLt
    have h3 := y.isLt
    rw [encode, formXYN_toNat]
    simp
    omega)⟩

theorem FitsRow.xorReg (x y : Reg) : FitsRow.Statement (.xorReg x y) :=
  ⟨⟨"XOR_Vx__Vy", 0xF00F, 0x8003⟩, by decide, rfl, selects_F00F (by
    have h2 := x.isLt
    have h3 := y.isLt
    rw [encode, formXYN_toNat]
    simp
    omega)⟩

theorem FitsRow.addReg (x y : Reg) : FitsRow.Statement (.addReg x y) :=
  ⟨⟨"ADD_Vx__Vy", 0xF00F, 0x8004⟩, by decide, rfl, selects_F00F (by
    have h2 := x.isLt
    have h3 := y.isLt
    rw [encode, formXYN_toNat]
    simp
    omega)⟩

theorem FitsRow.sub (x y : Reg) : FitsRow.Statement (.sub x y) :=
  ⟨⟨"SUB_Vx__Vy", 0xF00F, 0x8005⟩, by decide, rfl, selects_F00F (by
    have h2 := x.isLt
    have h3 := y.isLt
    rw [encode, formXYN_toNat]
    simp
    omega)⟩

theorem FitsRow.shr (x y : Reg) : FitsRow.Statement (.shr x y) :=
  ⟨⟨"SHR_Vx__Vy", 0xF00F, 0x8006⟩, by decide, rfl, selects_F00F (by
    have h2 := x.isLt
    have h3 := y.isLt
    rw [encode, formXYN_toNat]
    simp
    omega)⟩

theorem FitsRow.subn (x y : Reg) : FitsRow.Statement (.subn x y) :=
  ⟨⟨"SUBN_Vx__Vy", 0xF00F, 0x8007⟩, by decide, rfl, selects_F00F (by
    have h2 := x.isLt
    have h3 := y.isLt
    rw [encode, formXYN_toNat]
    simp
    omega)⟩

theorem FitsRow.shl (x y : Reg) : FitsRow.Statement (.shl x y) :=
  ⟨⟨"SHL_Vx__Vy", 0xF00F, 0x800E⟩, by decide, rfl, selects_F00F (by
    have h2 := x.isLt
    have h3 := y.isLt
    rw [encode, formXYN_toNat]
    simp
    omega)⟩

theorem FitsRow.sneReg (x y : Reg) : FitsRow.Statement (.sneReg x y) :=
  ⟨⟨"SNE_Vx__Vy", 0xF00F, 0x9000⟩, by decide, rfl, selects_F00F (by
    have h2 := x.isLt
    have h3 := y.isLt
    rw [encode, formXYN_toNat]
    simp
    omega)⟩

theorem FitsRow.ldI (nnn : Addr) : FitsRow.Statement (.ldI nnn) :=
  ⟨⟨"LD_I__nnn", 0xF000, 0xA000⟩, by decide, rfl, selects_F000 (by
    have h1 := nnn.isLt
    rw [encode, formNNN_toNat]
    simp
    omega)⟩

theorem FitsRow.jpV0 (nnn : Addr) (x : Reg) : FitsRow.Statement (.jpV0 nnn x) :=
  ⟨⟨"JP_V0__nnn", 0xF000, 0xB000⟩, by decide, rfl, selects_F000 (by
    have h1 := nnn.isLt
    rw [encode, formNNN_toNat]
    simp
    omega)⟩

theorem FitsRow.rnd (x : Reg) (nn : Byte) : FitsRow.Statement (.rnd x nn) :=
  ⟨⟨"RND_Vx__nn", 0xF000, 0xC000⟩, by decide, rfl, selects_F000 (by
    have h1 := nn.isLt
    have h2 := x.isLt
    rw [encode, formXNN_toNat]
    simp
    omega)⟩

theorem FitsRow.drw (x y : Reg) (n : BitVec 4) : FitsRow.Statement (.drw x y n) :=
  ⟨⟨"DRW_Vx__Vy__n", 0xF000, 0xD000⟩, by decide, rfl, selects_F000 (by
    have h1 := n.isLt
    have h2 := x.isLt
    have h3 := y.isLt
    rw [encode, formXYN_toNat]
    simp
    omega)⟩

theorem FitsRow.skp (x : Reg) : FitsRow.Statement (.skp x) :=
  ⟨⟨"SKP_Vx", 0xF0FF, 0xE09E⟩, by decide, rfl, selects_F0FF (by
    have h2 := x.isLt
    rw [encode, formXNN_toNat]
    simp
    omega)⟩

theorem FitsRow.sknp (x : Reg) : FitsRow.Statement (.sknp x) :=
  ⟨⟨"SKNP_Vx", 0xF0FF, 0xE0A1⟩, by decide, rfl, selects_F0FF (by
    have h2 := x.isLt
    rw [encode, formXNN_toNat]
    simp
    omega)⟩

theorem FitsRow.ldVxDt (x : Reg) : FitsRow.Statement (.ldVxDt x) :=
  ⟨⟨"LD_Vx__DT", 0xF0FF, 0xF007⟩, by decide, rfl, selects_F0FF (by
    have h2 := x.isLt
    rw [encode, formXNN_toNat]
    simp
    omega)⟩

theorem FitsRow.ldVxK (x : Reg) : FitsRow.Statement (.ldVxK x) :=
  ⟨⟨"LD_Vx__K", 0xF0FF, 0xF00A⟩, by decide, rfl, selects_F0FF (by
    have h2 := x.isLt
    rw [encode, formXNN_toNat]
    simp
    omega)⟩

theorem FitsRow.ldDtVx (x : Reg) : FitsRow.Statement (.ldDtVx x) :=
  ⟨⟨"LD_DT__Vx", 0xF0FF, 0xF015⟩, by decide, rfl, selects_F0FF (by
    have h2 := x.isLt
    rw [encode, formXNN_toNat]
    simp
    omega)⟩

theorem FitsRow.ldStVx (x : Reg) : FitsRow.Statement (.ldStVx x) :=
  ⟨⟨"LD_ST__Vx", 0xF0FF, 0xF018⟩, by decide, rfl, selects_F0FF (by
    have h2 := x.isLt
    rw [encode, formXNN_toNat]
    simp
    omega)⟩

theorem FitsRow.addI (x : Reg) : FitsRow.Statement (.addI x) :=
  ⟨⟨"ADD_I__Vx", 0xF0FF, 0xF01E⟩, by decide, rfl, selects_F0FF (by
    have h2 := x.isLt
    rw [encode, formXNN_toNat]
    simp
    omega)⟩

theorem FitsRow.ldF (x : Reg) : FitsRow.Statement (.ldF x) :=
  ⟨⟨"LD_F__Vx", 0xF0FF, 0xF029⟩, by decide, rfl, selects_F0FF (by
    have h2 := x.isLt
    rw [encode, formXNN_toNat]
    simp
    omega)⟩

theorem FitsRow.ldB (x : Reg) : FitsRow.Statement (.ldB x) :=
  ⟨⟨"LD_B__Vx", 0xF0FF, 0xF033⟩, by decide, rfl, selects_F0FF (by
    have h2 := x.isLt
    rw [encode, formXNN_toNat]
    simp
    omega)⟩

theorem FitsRow.ldMemVx (x : Reg) : FitsRow.Statement (.ldMemVx x) :=
  ⟨⟨"LD__I___Vx", 0xF0FF, 0xF055⟩, by decide, rfl, selects_F0FF (by
    have h2 := x.isLt
    rw [encode, formXNN_toNat]
    simp
    omega)⟩

theorem FitsRow.ldVxMem (x : Reg) : FitsRow.Statement (.ldVxMem x) :=
  ⟨⟨"LD_Vx___I", 0xF0FF, 0xF065⟩, by decide, rfl, selects_F0FF (by
    have h2 := x.isLt
    rw [encode, formXNN_toNat]
    simp
    omega)⟩

end Sys2Proof.Laws
end

