-- ==== Sys2Proof/Tests/Slice0.lean ====
section
/-! SUPPORT. Tests of the model and witnesses for the statements. Expected results are those of 95_test_vectors.md (its section
number stands before each group), or are worked from the rule named; words are written out from 30_encoding.md R72 and R74. -/

namespace Sys2Proof.Tests

open Sys2Proof.Machine

/-- The result is a next state with the property. -/
def onNext (r : Result) (p : State → Bool) : Bool :=
  match r with
  | .next t => p t
  | _ => false

/-- The result is a refusal. -/
def isRefused (r : Result) : Bool :=
  match r with
  | .refused _ => true
  | _ => false

/-- The reset state with V1 = `a` and V2 = `b`. -/
def regs12 (a b : Byte) : State := (State.reset.writeV 1 a).writeV 2 b

/-- The reset state under another configuration. -/
def under (f : Config → Config) (s : State) : State := { s with cfg := f s.cfg }

/-- One step that runs the word `w`. -/
def runWord (w : Nat) (s : State) : Result := step (s.withFetchWord 16 w)

/-! The well-formedness check and its refusal. -/

theorem test_wellFormed_refuses_disagreeing_fields : (Instr.jpV0 0x2F0 3).wellFormed = false := by decide

theorem test_wellFormed_accepts_agreeing_fields : (Instr.jpV0 0x2F0 2).wellFormed = true := by decide

/-! Decoding: a word for every constructor, its bits written out by the formats of R72. -/

theorem test_decode_fixed :
    decodeWord 0b0000_0000_1110_0000 = .ok .cls ∧ decodeWord 0b0000_0000_1110_1110 = .ok .ret := by decide

theorem test_decode_nnn :
    decodeWord 0b0001_1010_1011_1100 = .ok (.jp 0xABC) ∧ decodeWord 0b0010_0011_0000_0101 = .ok (.call 0x305) ∧
    decodeWord 0b1010_0010_1111_0000 = .ok (.ldI 0x2F0) ∧ decodeWord 0b1011_0010_1111_0000 = .ok (.jpV0 0x2F0 2) := by
  decide

theorem test_decode_xnn :
    decodeWord 0b0011_1010_0111_1111 = .ok (.seImm 0xA 0x7F) ∧ decodeWord 0b0100_0011_0010_1010 = .ok (.sneImm 3 0x2A) ∧
    decodeWord 0b0110_0000_0000_1010 = .ok (.ldImm 0 0x0A) ∧ decodeWord 0b0111_0001_0000_0101 = .ok (.addImm 1 0x05) ∧
    decodeWord 0b1100_0001_0000_1111 = .ok (.rnd 1 0x0F) := by decide

theorem test_decode_xy_compare :
    decodeWord 0b0101_1010_1011_0000 = .ok (.seReg 0xA 0xB) ∧ decodeWord 0b1001_0001_0010_0000 = .ok (.sneReg 1 2) := by
  decide

theorem test_decode_xy_alu :
    decodeWord 0b1000_0001_0010_0000 = .ok (.ldReg 1 2) ∧ decodeWord 0b1000_0001_0010_0001 = .ok (.orReg 1 2) ∧
    decodeWord 0b1000_0001_0010_0010 = .ok (.andReg 1 2) ∧ decodeWord 0b1000_0001_0010_0011 = .ok (.xorReg 1 2) ∧
    decodeWord 0b1000_0001_0010_0100 = .ok (.addReg 1 2) ∧ decodeWord 0b1000_0001_0010_0101 = .ok (.sub 1 2) ∧
    decodeWord 0b1000_1010_1011_0110 = .ok (.shr 0xA 0xB) ∧ decodeWord 0b1000_0001_0010_0111 = .ok (.subn 1 2) ∧
    decodeWord 0b1000_1010_1011_1110 = .ok (.shl 0xA 0xB) := by decide

theorem test_decode_xyn : decodeWord 0b1101_0001_0010_0101 = .ok (.drw 1 2 5) := by decide

theorem test_decode_x_keys_timers :
    decodeWord 0b1110_0101_1001_1110 = .ok (.skp 5) ∧ decodeWord 0b1110_0101_1010_0001 = .ok (.sknp 5) ∧
    decodeWord 0b1111_0100_0000_0111 = .ok (.ldVxDt 4) ∧ decodeWord 0b1111_0011_0000_1010 = .ok (.ldVxK 3) ∧
    decodeWord 0b1111_0100_0001_0101 = .ok (.ldDtVx 4) ∧ decodeWord 0b1111_0100_0001_1000 = .ok (.ldStVx 4) := by decide

theorem test_decode_x_index_memory :
    decodeWord 0b1111_0001_0001_1110 = .ok (.addI 1) ∧ decodeWord 0b1111_0010_0010_1001 = .ok (.ldF 2) ∧
    decodeWord 0b1111_0010_0011_0011 = .ok (.ldB 2) ∧ decodeWord 0b1111_1100_0101_0101 = .ok (.ldMemVx 0xC) ∧
    decodeWord 0b1111_1100_0110_0101 = .ok (.ldVxMem 0xC) := by decide

theorem test_decode_rejects :
    decodeWord 0xFFFF = .error (.unknownOpcode 0xFFFF) ∧ decodeWord 0x5AB1 = .error (.unknownOpcode 0x5AB1) ∧
    decodeWord 0x0123 = .error (.unknownOpcode 0x0123) ∧ decode [0x12] = .error .truncated := by decide

theorem test_decode_high_byte_first : decode [0x12, 0x34, 0x56] = .ok (.jp 0x234, [0x56]) := by decide

theorem test_decodeTableWord : decodeTableWord 16 0x8AB6 = some (.shr 0xA 0xB) ∧ decodeTableWord 16 0x8AB9 = none := by
  decide

/-! 2.2 Control flow. -/

theorem test_jp : onNext (runWord 0x1FFF State.reset) (fun t => t.pc == 0xFFF) = true := by decide

theorem test_call_pushes_wrapped_next :
    onNext (runWord 0x2ABC { State.reset with pc := 0xFFE, stack := [0x202] })
      (fun t => t.pc == 0xABC && t.stack == [0x202, 0x000]) = true := by decide

theorem test_ret_pops_last :
    onNext (runWord 0x00EE { State.reset with pc := 0x300, stack := [0x202, 0x250] })
      (fun t => t.pc == 0x250 && t.stack == [0x202]) = true := by decide

theorem test_ret_underflow :
    onNext (runWord 0x00EE (under (fun c => { c with allowUnknown := true }) State.reset))
      (fun t => t.pc == 0x200 && t.status == .fault (.stackUnderflow 0x200)) = true := by decide

theorem test_jpV0_wraps :
    onNext (runWord 0xBFFF ((State.reset.writeV 0 2).writeV 0xF 3)) (fun t => t.pc == 0x001) = true := by decide

theorem test_jpV0_vx :
    onNext (runWord 0xBFFF (under (fun c => { c with jmpOffsetMode := .vx }) ((State.reset.writeV 0 2).writeV 0xF 3)))
      (fun t => t.pc == 0x002) = true := by decide

theorem test_seImm : onNext (runWord 0x332A (State.reset.writeV 3 0x2A)) (fun t => t.pc == 0x204) = true := by decide

theorem test_seImm_wraps : onNext (runWord 0x3000 { State.reset with pc := 0xFFE }) (fun t => t.pc == 0x002) = true := by
  decide

theorem test_sneImm : onNext (runWord 0x432B (State.reset.writeV 3 0x2A)) (fun t => t.pc == 0x204) = true := by decide

theorem test_seReg : onNext (runWord 0x5120 (regs12 7 8)) (fun t => t.pc == 0x202) = true := by decide

theorem test_sneReg : onNext (runWord 0x9120 (regs12 7 8)) (fun t => t.pc == 0x204) = true := by decide

/-! 2.3 Register and ALU. -/

theorem test_ldImm_straddles_top :
    onNext (runWord 0x6A55 { State.reset with pc := 0xFFF }) (fun t => t.readV 0xA == 0x55 && t.pc == 0x001) = true := by
  decide

theorem test_addImm_no_flag :
    onNext (runWord 0x7102 (regs12 0xFF 0)) (fun t => t.readV 1 == 0x01 && t.readV VF == 0) = true := by decide

theorem test_ldReg : onNext (runWord 0x8120 (regs12 0 0x33)) (fun t => t.readV 1 == 0x33 && t.readV 2 == 0x33) = true := by
  decide

theorem test_orReg_keeps_VF :
    onNext (runWord 0x8121 ((regs12 0xF0 0x0F).writeV VF 1)) (fun t => t.readV 1 == 0xFF && t.readV VF == 1) = true := by
  decide

theorem test_andReg_keeps_VF :
    onNext (runWord 0x8122 ((regs12 0xF3 0x3F).writeV VF 1)) (fun t => t.readV 1 == 0x33 && t.readV VF == 1) = true := by
  decide

theorem test_xorReg_keeps_VF :
    onNext (runWord 0x8123 ((regs12 0xFF 0x0F).writeV VF 1)) (fun t => t.readV 1 == 0xF0 && t.readV VF == 1) = true := by
  decide

theorem test_addReg_carry :
    onNext (runWord 0x8124 (regs12 0xFF 0x01)) (fun t => t.readV 1 == 0x00 && t.readV VF == 1) = true := by decide

theorem test_addReg_flag_wins :
    onNext (runWord 0x8F24 ((regs12 0 2).writeV VF 1)) (fun t => t.readV VF == 0) = true := by decide

theorem test_sub_equal :
    onNext (runWord 0x8125 ((regs12 7 7).writeV VF 1)) (fun t => t.readV 1 == 0x00 && t.readV VF == 0) = true := by decide

theorem test_sub_borrow :
    onNext (runWord 0x8125 ((regs12 5 0xA).writeV VF 1)) (fun t => t.readV 1 == 0xFB && t.readV VF == 0) = true := by
  decide

theorem test_shr_legacy :
    onNext (runWord 0x8126 (regs12 0 0xFF)) (fun t => t.readV 1 == 0x7F && t.readV VF == 1 && t.readV 2 == 0xFF) = true := by
  decide

theorem test_shr_in_place :
    onNext (runWord 0x8126 (under (fun c => { c with shiftMode := .inPlace }) (regs12 5 0xA)))
      (fun t => t.readV 1 == 0x02 && t.readV VF == 1) = true := by decide

theorem test_subn :
    onNext (runWord 0x8127 ((regs12 0xA 5).writeV VF 1)) (fun t => t.readV 1 == 0xFB && t.readV VF == 0) = true := by
  decide

theorem test_shl_legacy :
    onNext (runWord 0x812E (regs12 0 0xFF)) (fun t => t.readV 1 == 0xFE && t.readV VF == 1) = true := by decide

theorem test_shl_in_place :
    onNext (runWord 0x812E (under (fun c => { c with shiftMode := .inPlace }) (regs12 0x81 0x40)))
      (fun t => t.readV 1 == 0x02 && t.readV VF == 1) = true := by decide

/-! 2.4 Index pointer, font address, random. -/

theorem test_ldI : onNext (runWord 0xAFFF { State.reset with i := 0x1005 }) (fun t => t.i == 0x0FFF) = true := by decide

theorem test_rnd_masks :
    onNext (exec (.rnd 1 0x0F) { State.reset with rand := 0xB7 }) (fun t => t.readV 1 == 0x07) = true := by decide

theorem test_rnd_zero :
    onNext (runWord 0xC10F (under (fun c => { c with randomMode := .zero }) (regs12 9 0))) (fun t => t.readV 1 == 0) = true := by
  decide

theorem test_addI_overflow :
    onNext (runWord 0xF11E { regs12 5 0 with i := 0x0FFE }) (fun t => t.i == 0x0003 && t.readV VF == 1) = true := by decide

theorem test_addI_no_overflow :
    onNext (runWord 0xF11E { regs12 1 0 with i := 0x0FFE }) (fun t => t.i == 0x0FFF && t.readV VF == 0) = true := by decide

theorem test_ldF : onNext (runWord 0xF229 (regs12 0 0xFF)) (fun t => t.i == 0x04FB) = true := by decide

/-! 2.5 Display. -/

theorem test_cls :
    onNext (runWord 0x00E0 { State.reset with fb := Vector.replicate 32 1, v := Vector.replicate 16 1 })
      (fun t => t.fb == Vector.replicate 32 0 && t.readV VF == 1) = true := by decide

theorem test_drw_glyph :
    onNext (runWord 0xD015 State.reset)
      (fun t => t.pixel 0 0 && t.pixel 0 3 && t.pixel 3 3 && t.pixel 4 1 && !t.pixel 1 1 && !t.pixel 0 4 && t.readV VF == 0) =
      true := by decide

theorem test_drw_clips_and_collides :
    onNext (runWord 0xD121 { (regs12 60 0).memWrite 0x300 0xFF with i := 0x300, fb := Vector.replicate 32 (1 <<< 63) })
      (fun t => t.pixel 0 60 && !t.pixel 0 63 && !t.pixel 0 0 && !t.pixel 0 59 && t.readV VF == 1) = true := by decide

/-! 2.6 Keypad and timers. -/

theorem test_skp : onNext (runWord 0xE19E { regs12 0x15 0 with keys := 1 <<< 5 }) (fun t => t.pc == 0x204) = true := by decide

theorem test_sknp : onNext (runWord 0xE1A1 { regs12 0xFF 0 with keys := 1 <<< 15 }) (fun t => t.pc == 0x202) = true := by
  decide

theorem test_ldVxK_waits :
    onNext (runWord 0xF30A State.reset) (fun t => t.pc == 0x200 && t.status == .waitKey) = true := by decide

theorem test_ldVxK_least :
    onNext (runWord 0xF30A { State.reset with keys := 1 <<< 7 ||| 1 <<< 11 }) (fun t => t.readV 3 == 7 && t.pc == 0x202) =
      true := by decide

theorem test_ldVxDt : onNext (runWord 0xF407 { State.reset with dt := 0x3C }) (fun t => t.readV 4 == 0x3C) = true := by decide

theorem test_ldDtVx :
    onNext (runWord 0xF415 (State.reset.writeV 4 0x3C)) (fun t => t.dt == 0x3C && t.st == 0) = true := by decide

theorem test_ldStVx :
    onNext (runWord 0xF418 (State.reset.writeV 4 2)) (fun t => t.st == 2 && t.dt == 0 && t.soundActive) = true := by decide

theorem test_tick :
    onNext (applyEvent .tick { State.reset with dt := 0xFF, st := 0 }) (fun t => t.dt == 0xFE && t.st == 0) = true := by
  decide

/-! 2.7 Memory operations. -/

theorem test_ldB_wraps :
    onNext (runWord 0xF233 { regs12 0 0x7B with i := 0xFFF })
      (fun t => t.memRead 0xFFF == 1 && t.memRead 0 == 2 && t.memRead 1 == 3 && t.i == 0xFFF) = true := by decide

theorem test_ldMemVx_wraps :
    onNext (runWord 0xF155 { (State.reset.writeV 0 1).writeV 1 2 with i := 0xFFFF })
      (fun t => t.memRead 0xFFF == 1 && t.memRead 0 == 2 && t.memRead 1 == 0x90 && t.i == 0x0001) = true := by decide

theorem test_ldMemVx_unchanged :
    onNext (runWord 0xF255 (under (fun c => { c with storeLoadMode := .unchanged }) { regs12 0x22 0x33 with i := 0x400 }))
      (fun t => t.memRead 0x402 == 0x33 && t.memRead 0x403 == 0 && t.i == 0x400) = true := by decide

theorem test_ldVxMem_font :
    onNext (runWord 0xF465 (State.reset.writeV 5 0x77))
      (fun t => t.v.toList.take 6 == [0xF0, 0x90, 0x90, 0x90, 0xF0, 0x77] && t.i == 0x0005) = true := by decide

/-! 2.8 Faults. -/

theorem test_unknown_stays :
    onNext (runWord 0x5121 State.reset)
      (fun t => t.pc == 0x200 && t.status == .fault (.unknownOpcode 0x5121 0x200)) = true := by decide

theorem test_unknown_stepped_over :
    onNext (runWord 0xFFFF (under (fun c => { c with allowUnknown := true }) { State.reset with pc := 0xFFE }))
      (fun t => t.pc == 0x000 && t.firstFault == some (.unknownOpcode 0xFFFF 0xFFE)) = true := by decide

/-- From reset with nothing loaded the first CYCLE fetches 0x0000 (R253). -/
theorem test_empty_image : onNext (step State.reset) (fun t => t.status == .fault (.unknownOpcode 0x0000 0x200)) = true := by
  decide

/-! The snapshot of R7 holds all state of R9, K among it. -/

theorem test_snapshot_has_all_state :
    { State.reset with keys := 0x8001, pc := 0x234, stack := [0x202] }.snapshot =
      ⟨Vector.replicate 32 0, false, 0, 0, Vector.replicate 16 0, 0, 0x234, [0x202], [], 0x8001, .ok⟩ := by decide

/-! 2.9 RESET. -/

theorem test_reset_injects_last :
    onNext (applyEvent (.reset ⟨defaultFont, [0x60, 0x01], [(0x201, 0x02), (0x000, 0xFF)], Config.conventions⟩)
        { State.reset with stack := [0x202], v := Vector.replicate 16 9 })
      (fun t => t.memRead 0x200 == 0x60 && t.memRead 0x201 == 0x02 && t.memRead 0 == 0xFF && t.memRead 1 == 0x90 &&
        t.stack == [] && t.readV 3 == 0) = true := by decide

theorem test_reset_refuses :
    isRefused (applyEvent (.reset ⟨[0xF0], [], [], Config.conventions⟩) State.reset) = true ∧
    isRefused (applyEvent (.reset ⟨defaultFont, [], [(0x1000, 0)], Config.conventions⟩) State.reset) = true ∧
    isRefused (applyEvent (.reset ⟨defaultFont, [], [(0, 256)], Config.conventions⟩) State.reset) = true := by decide

/-! Witnesses: for each statement with hypotheses, a state and operands that meet them all; for each clause, a value at the edge
of its range. -/

/-- Every `RowDecodes mask value f` has a word: the row's own value, and the one with every free bit set. -/
theorem witness_RowDecodes :
    opcodeTable.all (fun r => r.value &&& r.mask == r.value && (r.value ||| ~~~r.mask) &&& r.mask == r.value) = true := by
  decide

theorem witness_DecodeOfEncode :
    (Instr.jpV0 0xFFF 0xF).wellFormed = true ∧ (Instr.jpV0 0x000 0).wellFormed = true ∧
    (Instr.drw 0xF 0 0xF).wellFormed = true := by decide

theorem witness_EncodeOfDecode : decodeWord 0xBFFF = .ok (.jpV0 0xFFF 0xF) ∧ decodeWord 0x00EE = .ok .ret := by decide

theorem witness_DecodeFollowsDispatchTable :
    (∃ r ∈ opcodeTable, r.selects 0xFF65 = true) ∧ (∀ r ∈ opcodeTable, r.selects 0xFFFF = false) := by decide

theorem witness_RowsDoNotOverlap :
    ∃ a ∈ opcodeTable, ∃ b ∈ opcodeTable, a.selects 0x00E0 = true ∧ b.selects 0x00E0 = true := by decide

theorem witness_MemoryReadsWhatWasWritten :
    (State.reset.memWrite 0xFFF 7).mem.wf = true ∧ (0x1000 : Nat) % 4096 ≠ 0xFFF % 4096 := by decide

theorem witness_CanonicalMemoryIsUnique :
    ∃ m m' : Memory, m.wf = true ∧ m'.wf = true ∧ m ≠ [] ∧ ∀ a, a < 4096 → m.read a = m'.read a :=
  ⟨[(0xFFF, 1)], Memory.write [] 0xFFF 1, by decide, by decide, by decide, fun _ _ => rfl⟩

theorem witness_StoreIsSeenByTheNextFetch :
    ∃ s : State, s.mem.wf = true ∧ 0xFFF % 4096 = s.pc.toNat ∧ 0x1000 % 4096 = (s.pc.toNat + 1) % 4096 ∧
      0x001 % 4096 ≠ s.pc.toNat ∧ 0x001 % 4096 ≠ (s.pc.toNat + 1) % 4096 :=
  ⟨{ State.reset with pc := 0xFFF }, by decide⟩

theorem witness_ReturnPopsOrUnderflows :
    (∃ (s : State) (rest : List Addr) (a : Addr), s.stack = rest ++ [a]) ∧ ∃ s : State, s.stack = [] :=
  ⟨⟨{ State.reset with stack := [0x202, 0xFFF] }, [0x202], 0xFFF, rfl⟩, State.reset, rfl⟩

theorem witness_JumpWithOffset :
    (∃ s : State, s.cfg.jmpOffsetMode = .v0) ∧ ∃ s : State, s.cfg.jmpOffsetMode = .vx :=
  ⟨⟨State.reset, rfl⟩, under (fun c => { c with jmpOffsetMode := .vx }) State.reset, rfl⟩

theorem witness_SkipsCompareAndMoveOnlyPc :
    (∃ s : State, s.readV 1 = 0x07 ∧ s.readV 1 = s.readV 2) ∧ ∃ s : State, s.readV 1 ≠ 0x08 ∧ s.readV 1 ≠ s.readV 2 :=
  ⟨⟨regs12 7 7, by decide⟩, regs12 7 8, by decide⟩

theorem witness_ReturnUndoesCall :
    ∃ (s t u : State) (nnn : Addr), exec (.call nnn) s = .next t ∧ exec .ret t = .next u :=
  ⟨State.reset, _, _, 0x300, rfl, rfl⟩

theorem witness_AddRegistersWithCarry :
    (1 : Reg) ≠ VF ∧ (∃ s : State, (s.readV 1).toNat + (s.readV 2).toNat = 256) ∧
    ∃ s : State, (s.readV 1).toNat + (s.readV 2).toNat = 255 :=
  ⟨by decide, ⟨regs12 0xFF 1, by decide⟩, regs12 0xFE 1, by decide⟩

theorem witness_SubtractWithStrictFlag :
    (1 : Reg) ≠ VF ∧ (∃ s : State, (s.readV 1).toNat > (s.readV 2).toNat) ∧
    ∃ s : State, ¬ (s.readV 1).toNat > (s.readV 2).toNat ∧ (s.readV 2).toNat = (s.readV 1).toNat :=
  ⟨by decide, ⟨regs12 8 7, by decide⟩, regs12 7 7, by decide⟩

theorem witness_ShiftsByQuirk :
    (∃ (s : State) (x y z : Reg), s.cfg.shiftMode = .legacy ∧ x ≠ VF ∧ x ≠ y ∧
      (s.cfg.shiftMode = .legacy → z = y) ∧ (s.cfg.shiftMode = .inPlace → z = x)) ∧
    ∃ (s : State) (x y z : Reg), s.cfg.shiftMode = .inPlace ∧ x ≠ VF ∧ x ≠ y ∧
      (s.cfg.shiftMode = .legacy → z = y) ∧ (s.cfg.shiftMode = .inPlace → z = x) :=
  ⟨⟨State.reset, 1, 2, 2, by decide⟩,
    under (fun c => { c with shiftMode := .inPlace }) State.reset, 1, 2, 1, by decide⟩

theorem witness_RandomUnderMask :
    (∃ s : State, s.cfg.randomMode = .random) ∧ ∃ s : State, s.cfg.randomMode = .zero :=
  ⟨⟨State.reset, rfl⟩, under (fun c => { c with randomMode := .zero }) State.reset, rfl⟩

theorem witness_AddToIndexByQuirk :
    (∃ s : State, s.i.toNat + (s.readV 1).toNat = 0xFFF) ∧
    (∃ s : State, s.i.toNat + (s.readV 1).toNat = 0x1000 ∧ s.cfg.addIndexMode = .setVf) ∧
    ∃ s : State, s.i.toNat + (s.readV 1).toNat > 0xFFFF ∧ s.cfg.addIndexMode = .noVf :=
  ⟨⟨{ regs12 1 0 with i := 0xFFE }, by decide⟩, ⟨{ regs12 2 0 with i := 0xFFE }, by decide⟩,
    under (fun c => { c with addIndexMode := .noVf }) { regs12 1 0 with i := 0xFFFF }, by decide⟩

/-- The two corners of the screen, a sprite that lights one of them, and a sprite pixel that is clipped. -/
theorem witness_DrawTogglesTheSpritePixels :
    (∃ s : State, SpritePixel s 1 2 1 31 63 ∧ s.pixel 31 63 = true ∧ ¬ SpritePixel s 1 2 1 0 0) ∧
    ∃ s : State, SpritePixel s 1 2 1 0 0 ∧ ∀ r c, s.pixel r c = false := by
  refine ⟨⟨{ (regs12 63 31).memWrite 0x300 0x81 with i := 0x300, fb := Vector.replicate 32 (1 <<< 63) }, ?_⟩,
    { (regs12 0 0).memWrite 0x300 0x81 with i := 0x300 }, ?_, fun r c => ?_⟩
  · unfold SpritePixel; decide
  · unfold SpritePixel; decide
  · show (if h : r < 32 then ((Vector.replicate 32 (0 : BitVec 64))[r]).getLsbD c else false) = false
    split <;> simp

/-- On a dark screen, as R164 (b) needs it, with a sprite that has a 1 inside the screen. -/
theorem witness_DrawTwiceRestoresTheScreen :
    ∃ (s t u : State) (x y : Reg) (n : BitVec 4), x ≠ VF ∧ y ≠ VF ∧
      exec (.drw x y n) s = .next t ∧ exec (.drw x y n) t = .next u ∧
      (∀ r c, SpritePixel s x y n r c → s.pixel r c = false) ∧ SpritePixel s x y n 0 0 := by
  refine ⟨State.reset, _, _, 0, 1, 5, by decide, by decide, rfl, rfl, fun r c _ => ?_, ?_⟩
  · show (if h : r < 32 then ((Vector.replicate 32 (0 : BitVec 64))[r]).getLsbD c else false) = false
    split <;> simp
  · unfold SpritePixel
    decide

/-- The other side of that clause, by R163's pseudocode: one sprite pixel, at (0, 0), which is lit before both draws. The first
draw turns it off (VF = 1), the second turns it on (VF = 0), though the sprite has a 1 inside the screen (log entry 12). -/
theorem witness_DrawTwiceRestoresTheScreen_lit :
    ∃ s : State, SpritePixel s 1 2 1 0 0 ∧ s.pixel 0 0 = true ∧
      onNext (exec (.drw 1 2 1) s) (fun t => !t.pixel 0 0 && t.readV VF == 1 &&
        onNext (exec (.drw 1 2 1) t) fun u => u.pixel 0 0 && u.readV VF == 0) = true := by
  refine ⟨{ State.reset.memWrite 0x300 0x80 with i := 0x300, fb := Vector.replicate 32 1 }, ?_, by decide, by decide⟩
  unfold SpritePixel
  decide

theorem witness_SkipsOnAKey :
    (∃ s : State, (15 : Nat) = (s.readV 1).toNat % 16 ∧ s.keys.getLsbD 15 = true) ∧
    ∃ s : State, (0 : Nat) = (s.readV 1).toNat % 16 ∧ s.keys.getLsbD 0 = false :=
  ⟨⟨{ regs12 0xFF 0 with keys := 1 <<< 15 }, by decide⟩, regs12 0x10 0, by decide⟩

theorem witness_WaitForKeyTakesTheLeastKey :
    (∃ s : State, ∀ k, k < 16 → s.keys.getLsbD k = false) ∧
    (∃ s : State, s.keys.getLsbD 15 = true ∧ ∀ j, j < 15 → s.keys.getLsbD j = false) ∧
    ∃ s : State, s.keys.getLsbD 0 = true ∧ s.keys.getLsbD 15 = true ∧ ∀ j, j < 0 → s.keys.getLsbD j = false :=
  ⟨⟨State.reset, by decide⟩, ⟨{ State.reset with keys := 1 <<< 15 }, by decide⟩,
    { State.reset with keys := 0xFFFF }, by decide⟩

/-- For the BCD and block stores: canonical memory, a block that passes 0xFFF, its last cell and the first cell after it, and
both values of the quirk. -/
theorem witness_BlockStore :
    (∃ s : State, s.mem.wf = true ∧ s.cfg.storeLoadMode = .increment ∧
      InBlock (s.indexAddr 0) 16 0x00E ∧ ¬ InBlock (s.indexAddr 0) 16 0x00F) ∧
    ∃ s : State, s.mem.wf = true ∧ s.cfg.storeLoadMode = .unchanged := by
  refine ⟨⟨{ State.reset with i := 0xFFFF }, by decide, rfl, ⟨15, by decide⟩, ?_⟩,
    under (fun c => { c with storeLoadMode := .unchanged }) State.reset, by decide, rfl⟩
  rintro ⟨k, hk, e⟩
  have e' : 0x00F % 4096 = (0xFFFF + 0 + k) % 4096 := e
  omega

theorem witness_DecimalDigitsAreStored :
    ∃ s : State, s.mem.wf = true ∧ (s.readV 1).toNat = 255 ∧ ¬ InBlock (s.indexAddr 0) 3 0x002 := by
  refine ⟨{ regs12 0xFF 0 with i := 0xFFF }, by decide, by decide, ?_⟩
  rintro ⟨k, hk, e⟩
  have e' : 0x002 % 4096 = (0xFFF + 0 + k) % 4096 := e
  omega

theorem witness_BlockLoad :
    (∃ s : State, s.cfg.storeLoadMode = .increment) ∧ (∃ s : State, s.cfg.storeLoadMode = .unchanged) ∧
    (0xF : Reg) ≤ 0xF ∧ (0 : Reg) ≤ 0 ∧ (0 : Reg) < 1 :=
  ⟨⟨State.reset, rfl⟩, ⟨under (fun c => { c with storeLoadMode := .unchanged }) State.reset, rfl⟩, by decide⟩

theorem witness_BlockLoad_round_trip :
    ∃ (s t u v : State) (x : Reg), s.mem.wf = true ∧ exec (.ldMemVx x) s = .next t ∧ u.mem = t.mem ∧ u.i = s.i ∧
      exec (.ldVxMem x) u = .next v :=
  ⟨{ regs12 5 6 with i := 0xFFF }, _, { State.reset with i := 0xFFF, mem := ((regs12 5 6).memWriteList 0xFFF [0, 5, 6]).mem },
    _, 2, by decide, rfl, by decide, rfl, rfl⟩

theorem witness_UnknownOpcodeTouchesOnlyPc :
    (∃ s : State, decodeWord s.fetchWord = .error (.unknownOpcode s.fetchWord) ∧ s.cfg.allowUnknown = false) ∧
    ∃ s : State, decodeWord s.fetchWord = .error (.unknownOpcode s.fetchWord) ∧ s.cfg.allowUnknown = true :=
  ⟨⟨State.reset, by decide⟩, under (fun c => { c with allowUnknown := true }) State.reset, by decide⟩

theorem witness_StackUnderflowTouchesNothing : ∃ s : State, s.fetchWord = 0x00EE ∧ s.stack = [] :=
  ⟨State.reset.placeWord 0x00EE, by decide⟩

/-- All four statuses occur. -/
theorem witness_EveryCycleReturnsItsStatus :
    (∃ s : State, s.fetchWord &&& 0xF0FF = 0xF00A ∧ s.keys = 0) ∧
    (∃ s : State, ∀ r ∈ opcodeTable, r.selects s.fetchWord = false) ∧
    (∃ s : State, s.fetchWord = 0x00EE ∧ s.stack = []) ∧
    onNext (cycle (State.reset.placeWord 0x1200)) (fun t => t.status.code == 0) = true :=
  ⟨⟨State.reset.placeWord 0xFF0A, by decide⟩, ⟨State.reset, by decide⟩, ⟨State.reset.placeWord 0x00EE, by decide⟩,
    by decide⟩

/-- RESET's arguments that are accepted: the largest image and pairs at both ends of the ranges. -/
theorem witness_ResetArgs_ok :
    (⟨defaultFont, List.replicate 3584 0xAA, [(0xFFF, 255), (0, 0)], Config.conventions⟩ : ResetArgs).ok := by
  exact ⟨rfl, Nat.le_of_eq List.length_replicate, by decide, by decide⟩

theorem witness_OnlyAnEmptyReturnFaults : ∀ a, Event.tick = .reset a → a.ok := by
  intro a h
  cases h

/-- RESET's arguments that are refused, one beyond each range. -/
theorem witness_ResetBuildsTheStartUpState :
    (defaultFont ++ [0]).length ≠ 80 ∧ (List.replicate 3585 (0 : Byte)).length > 3584 ∧
    (∃ p ∈ [((0x1000 : Nat), (0 : Nat))], p.1 > 0xFFF ∨ p.2 > 255) ∧
    (∃ p ∈ [((0 : Nat), (256 : Nat))], p.1 > 0xFFF ∨ p.2 > 255) ∧
    (∀ p ∈ [((0xFFF : Nat), (255 : Nat))], p.1 ≠ 0x1FF) ∧ (∀ p ∈ [((0xFFF : Nat), (255 : Nat))], p.1 ≠ 0x200) := by
  exact ⟨by decide, by rw [List.length_replicate]; decide, by decide, by decide, by decide, by decide⟩

theorem witness_TickCountsDown :
    (∃ s : State, 0 < s.dt.toNat ∧ s.st.toNat = 0) ∧ ∃ s : State, s.dt.toNat = 0 ∧ 0 < s.st.toNat :=
  ⟨⟨{ State.reset with dt := 1 }, by decide⟩, { State.reset with st := 255 }, by decide⟩

/-- Both ways to stand at a fault, and events without RESET. -/
theorem witness_FaultIsReturnedForEver :
    (∃ (s : State) (f : Fault), StandsAtFault s f ∧ s.stack = [0x202]) ∧
    (∃ (s : State) (f : Fault), StandsAtFault s f ∧ s.cfg.allowUnknown = true) ∧
    (∀ e ∈ [Event.keys 1, .cycle none, .tick], e.isReset = false) ∧ (∃ e ∈ [Event.keys 1, .cycle none], e.isCycle = true) :=
  ⟨⟨{ State.reset with stack := [0x202] }, _, .inl ⟨⟨_, rfl⟩, rfl, rfl⟩, rfl⟩,
    ⟨under (fun c => { c with allowUnknown := true }) (State.reset.placeWord 0x00EE), _, .inr ⟨by decide, rfl, rfl⟩, rfl⟩,
    by decide, by decide⟩

theorem witness_WaitLastsUntilAKeyComes :
    (∃ s : State, WaitsForKey s) ∧ (∀ e ∈ [Event.keys 0, .cycle none, .tick], e.isReset = false ∧ ∀ k, e = .keys k → k = 0) ∧
    (∃ e ∈ [Event.keys 0, .cycle none, .tick], e.isCycle = true) := by
  refine ⟨⟨State.reset.placeWord 0xF30A, ⟨3, by decide⟩, rfl⟩, ?_, by decide⟩
  intro e he
  simp only [List.mem_cons, List.not_mem_nil, or_false] at he
  rcases he with rfl | rfl | rfl <;> refine ⟨rfl, fun k h => ?_⟩ <;> cases h
  rfl

theorem witness_HaltedLoopStaysHalted :
    (∃ s : State, HaltedLoop s) ∧ (∀ e ∈ [Event.keys 1, .cycle none, .tick], e.isReset = false) :=
  ⟨⟨State.reset.placeWord 0x1200, show decodeWord (State.reset.placeWord 0x1200).fetchWord = .ok (.jp 0x200) by decide⟩,
    by decide⟩

/-- A CYCLE that ends in each of the three statuses that keep PC, and a RESET. -/
theorem witness_EventsChangeOnlyWhatTheFrameTableAllows :
    (∃ s t : State, applyEvent .tick s = .next t ∧ eventMayChange .pc .tick s = false) ∧
    (∃ s t : State, applyEvent (.cycle (some 0)) s = .next t ∧ t.status = .waitKey) ∧
    (∃ s t : State, applyEvent (.cycle (some 0)) s = .next t ∧ t.status = .fault (.stackUnderflow 0x200)) ∧
    (∃ s t : State, applyEvent (.cycle (some 0)) s = .next t ∧ t.status = .fault (.unknownOpcode 0 0x200) ∧
      s.cfg.allowUnknown = false) ∧
    ∃ s t : State, applyEvent (.reset ⟨defaultFont, [], [], Config.conventions⟩) s = .next t :=
  ⟨⟨State.reset, _, rfl, rfl⟩,
    ⟨State.reset.placeWord 0xF30A, { State.reset.placeWord 0xF30A with status := .waitKey }, rfl, rfl⟩,
    ⟨State.reset.placeWord 0x00EE, (State.reset.placeWord 0x00EE).raise (.stackUnderflow 0x200), rfl, rfl⟩,
    ⟨State.reset, State.reset.raise (.unknownOpcode 0 0x200), rfl, rfl, rfl⟩,
    ⟨State.reset, _, rfl⟩⟩

theorem witness_QuirksAffectOnlyTheirInstructions :
    ∃ (i : Instr) (s t : State) (c : Config), c ≠ s.cfg ∧ quirkAgrees s.cfg c i ∧ exec i s = .next t :=
  ⟨.shr 1 2, State.reset, _, { Config.conventions with allowUnknown := true, randomMode := .zero }, by decide, rfl, rfl⟩

theorem witness_RandIsReadOnlyByRnd :
    ∃ (i : Instr) (s t : State), ((∃ x nn, i = .rnd x nn) → s.cfg.randomMode = .zero) ∧ exec i s = .next t :=
  ⟨.rnd 1 0xFF, under (fun c => { c with randomMode := .zero }) State.reset, _, fun _ => rfl, rfl⟩

theorem witness_StepRunsTheDecodedInstruction :
    (∃ (s t : State) (r : Option Byte) (i : Instr), s.nextEvent = (.cycle r, t) ∧ decodeWord s.fetchWord = .ok i) ∧
    ∃ s : State, s.inbox = [] ∧ s.schedule = [] :=
  ⟨⟨{ State.reset.placeWord 0x1200 with inbox := [.cycle (some 7)] }, _, some 7, .jp 0x200, rfl, by decide⟩,
    State.reset, rfl, rfl⟩

theorem witness_WithFetchWordRunsTheInstruction : State.reset.mem.wf = true ∧ (Instr.jpV0 0x2F0 2).wellFormed = true := by
  decide

theorem witness_StepsTakeThePendingEvents :
    (∃ (es : List Event) (s t : State), es ≠ [] ∧ runEvents es s = .next t) ∧
    ∃ es : List Event, es ≠ [] ∧ ∀ a, .reset a ∈ es → a.ok := by
  refine ⟨⟨[.keys 1, .tick], State.reset, _, by decide, rfl⟩,
    [.reset ⟨defaultFont, [0x12, 0x00], [], Config.conventions⟩, .cycle none], by decide, fun a h => ?_⟩
  simp only [List.mem_cons, Event.reset.injEq, reduceCtorEq, List.not_mem_nil, or_false] at h
  subst h
  exact ⟨rfl, by decide, by decide, by decide⟩

theorem witness_PollAfterSettingDelayReadsOneLess :
    ∃ (s t u : State), decodeWord s.fetchWord = .ok (.ldDtVx 0) ∧ runEvents (referenceIteration 0 0) s = .next t ∧
      decodeWord t.fetchWord = .ok (.ldVxDt 1) ∧ runEvents (referenceIteration 0 0) t = .next u :=
  ⟨(State.reset.writeV 0 3).memWriteList 0x200 [0xF0, 0x15, 0xF1, 0x07], _, _, by decide, rfl, by decide, rfl⟩

theorem witness_StepKeepsInv : ∃ s t : State, Inv s ∧ step s = .next t ∧ t.status ≠ .ok :=
  ⟨{ State.reset with inbox := [.cycle (some 0)] }, State.reset.raise (.unknownOpcode 0 0x200), ⟨rfl, fun f h => by cases h⟩,
    rfl, by decide⟩

theorem witness_StepKeepsIndexIn12Bits :
    ∃ s t : State, IndexIn12Bits s ∧ s.cfg.storeLoadMode = .unchanged ∧ step s = .next t :=
  ⟨under (fun c => { c with storeLoadMode := .unchanged }) { State.reset with i := 0xFFF, inbox := [.cycle (some 0)] }, _,
    fun _ => by decide, rfl, rfl⟩

theorem witness_FirstFaultStaysOnRecord :
    (∃ s t : State, cycle s = .next t) ∧
    ∃ (e : Event) (s t : State) (f : Fault), e.isReset = false ∧ applyEvent e s = .next t ∧ s.firstFault = some f :=
  ⟨⟨State.reset, _, rfl⟩, .tick, { State.reset with firstFault := some (.stackUnderflow 0x200) }, _, _, rfl, rfl, rfl⟩

end Sys2Proof.Tests
end

section
/-! PROOFS. The statements about events, steps and the reference schedule (00_scope.md R5 to R8). First what they share: every
CYCLE has a next state, `runEvents` unrolls event by event, and no event reads the pending ones. -/

namespace Sys2Proof.Machine

/-! Every instruction and every acceptable event has a next state (R220, R223, R250). -/

theorem exec_next (i : Instr) (s : State) : ∃ t, exec i s = .next t := by
  cases i
  case ret =>
    simp only [exec, execRet]
    split <;> exact ⟨_, rfl⟩
  case ldVxK x =>
    simp only [exec, execLdVxK]
    split <;> exact ⟨_, rfl⟩
  case addI x =>
    simp only [exec, execAddI]
    split <;> exact ⟨_, rfl⟩
  all_goals exact ⟨_, rfl⟩

theorem exec_ret_of_stack_nil {s : State} (h : s.stack = []) :
    exec .ret s = .next (s.raise (.stackUnderflow s.pc)) := by
  simp [exec, execRet, h, takeFault_eq]

/-- A CYCLE whose word decodes is the instruction (R225). -/
theorem cycle_of_decodeWord {s : State} {i : Instr} (h : decodeWord s.fetchWord = .ok i) : cycle s = exec i s := by
  simp [cycle, h]

theorem cycle_next (s : State) : ∃ t, cycle s = .next t := by
  cases h : decodeWord s.fetchWord with
  | ok i => rw [cycle_of_decodeWord h]; exact exec_next i s
  | error e => exact ⟨_, by rw [cycle, h]; exact unknownOpcode_eq _ _⟩

theorem applyEvent_reset_of_ok {a : ResetArgs} (h : a.ok) (s : State) : applyEvent (.reset a) s = .next (s.loaded a) := by
  simp [applyEvent, resetEvent, (ResetArgs.problem_eq_none_iff a).mpr h]

theorem applyEvent_next {e : Event} (h : ∀ a, e = .reset a → a.ok) (s : State) : ∃ t, applyEvent e s = .next t := by
  cases e with
  | reset a => exact ⟨_, applyEvent_reset_of_ok (h a rfl) s⟩
  | keys k => exact ⟨_, rfl⟩
  | cycle r => exact cycle_next _
  | tick => exact ⟨_, rfl⟩

/-! A sequence of events, event by event. -/

theorem runEvents_cons_of_next {e : Event} {s u : State} (h : applyEvent e s = .next u) (es : List Event) :
    runEvents (e :: es) s = runEvents es u := by
  rw [runEvents, h]

theorem runEvents_cons_next {e : Event} {es : List Event} {s t : State} (h : runEvents (e :: es) s = .next t) :
    ∃ u, applyEvent e s = .next u ∧ runEvents es u = .next t := by
  rw [runEvents] at h
  split at h
  · next u hu => exact ⟨u, hu, h⟩
  · cases h
  · cases h

theorem runEvents_next {es : List Event} (h : ∀ a, .reset a ∈ es → a.ok) (s : State) : ∃ t, runEvents es s = .next t := by
  induction es generalizing s with
  | nil => exact ⟨s, rfl⟩
  | cons e es ih =>
    obtain ⟨u, hu⟩ := applyEvent_next (fun a he => h a (he ▸ List.mem_cons_self ..)) s
    rw [runEvents_cons_of_next hu]
    exact ih (fun a ha => h a (List.mem_cons_of_mem _ ha)) u

/-- One iteration of the reference host ends in the TICK of what its CYCLE left (R8, R232). -/
theorem runEvents_referenceIteration {s c : State} {k : BitVec 16} {r : Byte}
    (h : cycle ((s.latchKeys k).latchRand (some r)) = .next c) : runEvents (referenceIteration k r) s = .next c.tick := by
  rw [referenceIteration, runEvents_cons_of_next rfl, runEvents_cons_of_next (e := .cycle (some r)) h,
    runEvents_cons_of_next rfl, runEvents]

/-! No event reads the pending events: with others pending it does the same, and leaves those (log entry 4). -/

/-- The drawing loop reads memory and I and nothing else of the state (R163). -/
theorem State.drawRows_congr {s t : State} (hmem : t.mem = s.mem) (hi : t.i = s.i) (px py m k : Nat)
    (fb : Vector (BitVec 64) 32) (hit : Bool) : t.drawRows px py m k fb hit = s.drawRows px py m k fb hit := by
  induction m generalizing k fb hit with
  | zero => rfl
  | succ m ih => simp only [State.drawRows, ih, State.memRead_eq_of_mem_eq hmem, State.indexAddr, hi]

/-- The state with other events pending. -/
def State.setInbox (s : State) (l : List Event) : State := { s with inbox := l }

@[simp] theorem State.setInbox_i (s : State) (l : List Event) : (s.setInbox l).i = s.i := rfl

@[simp] theorem State.setInbox_stack (s : State) (l : List Event) : (s.setInbox l).stack = s.stack := rfl

@[simp] theorem State.setInbox_cfg (s : State) (l : List Event) : (s.setInbox l).cfg = s.cfg := rfl

@[simp] theorem State.readV_setInbox (s : State) (l : List Event) (r : Reg) : (s.setInbox l).readV r = s.readV r := rfl

@[simp] theorem State.leastKey_setInbox (s : State) (l : List Event) : (s.setInbox l).leastKey = s.leastKey := rfl

@[simp] theorem State.fetchWord_setInbox (s : State) (l : List Event) : (s.setInbox l).fetchWord = s.fetchWord := rfl

theorem State.drawSprite_setInbox (s : State) (l : List Event) (x y : Reg) (n : BitVec 4) :
    (s.setInbox l).drawSprite x y n = s.drawSprite x y n :=
  State.drawRows_congr (s := s) (t := s.setInbox l) rfl rfl _ _ _ _ _ _

theorem State.memWriteList_setInbox (s : State) (l : List Event) (a : Nat) (bs : List Byte) :
    (s.setInbox l).memWriteList a bs = (s.memWriteList a bs).setInbox l := by
  induction bs generalizing s a with
  | nil => rfl
  | cons b bs ih => exact ih (s.memWrite a b) (a + 1)

theorem State.injectRam_setInbox (s : State) (l : List Event) (ps : List (Nat × Nat)) :
    (s.setInbox l).injectRam ps = (s.injectRam ps).setInbox l := by
  induction ps generalizing s with
  | nil => rfl
  | cons p ps ih => exact ih (s.memWrite p.1 (BitVec.ofNat 8 p.2))

theorem State.zeroed_setInbox (s : State) (l : List Event) (c : Config) :
    (s.setInbox l).zeroed c = (s.zeroed c).setInbox l := rfl

theorem State.loaded_setInbox (s : State) (l : List Event) (a : ResetArgs) :
    (s.setInbox l).loaded a = (s.loaded a).setInbox l := by
  simp only [State.loaded, State.zeroed_setInbox, State.memWriteList_setInbox, State.injectRam_setInbox]

theorem State.latchRand_setInbox (s : State) (l : List Event) (r : Option Byte) :
    (s.setInbox l).latchRand r = (s.latchRand r).setInbox l := by
  cases r <;> rfl

theorem State.flagIndexOverflow_setInbox (s : State) (l : List Event) :
    (s.setInbox l).flagIndexOverflow = s.flagIndexOverflow.setInbox l := by
  simp only [State.flagIndexOverflow, State.setInbox_cfg]
  cases s.cfg.addIndexMode <;> rfl

theorem execRet_setInbox {s t : State} (h : execRet s = .next t) (l : List Event) :
    execRet (s.setInbox l) = .next (t.setInbox l) := by
  rw [execRet, State.setInbox_stack]
  rw [execRet] at h
  split at h <;> (injection h with h; subst h; rfl)

theorem execLdVxK_setInbox {x : Reg} {s t : State} (h : execLdVxK x s = .next t) (l : List Event) :
    execLdVxK x (s.setInbox l) = .next (t.setInbox l) := by
  rw [execLdVxK, State.leastKey_setInbox]
  rw [execLdVxK] at h
  split at h <;> (injection h with h; subst h; rfl)

theorem execAddI_setInbox {x : Reg} {s t : State} (h : execAddI x s = .next t) (l : List Event) :
    execAddI x (s.setInbox l) = .next (t.setInbox l) := by
  rw [execAddI, State.setInbox_i, State.readV_setInbox]
  rw [execAddI] at h
  by_cases ho : indexOverflow s.i (s.readV x) = true
  · rw [if_pos ho] at h ⊢
    injection h with h
    subst h
    exact congrArg advance (State.flagIndexOverflow_setInbox (s.setIndex _) l)
  · rw [if_neg ho] at h ⊢
    injection h with h
    subst h
    rfl

theorem execDrw_setInbox {x y : Reg} {n : BitVec 4} {s t : State} (h : execDrw x y n s = .next t) (l : List Event) :
    execDrw x y n (s.setInbox l) = .next (t.setInbox l) := by
  injection h with h
  subst h
  simp only [execDrw, State.drawSprite_setInbox]
  rfl

theorem execLdMemVx_setInbox {x : Reg} {s t : State} (h : execLdMemVx x s = .next t) (l : List Event) :
    execLdMemVx x (s.setInbox l) = .next (t.setInbox l) := by
  injection h with h
  subst h
  simp only [execLdMemVx, State.memWriteList_setInbox]
  rfl

/-- Every instruction but these five is one update of the state, and so commutes with the other inbox by computation. -/
theorem exec_setInbox {i : Instr} {s t : State} (h : exec i s = .next t) (l : List Event) :
    exec i (s.setInbox l) = .next (t.setInbox l) := by
  cases i
  case ret => exact execRet_setInbox h l
  case ldVxK x => exact execLdVxK_setInbox h l
  case addI x => exact execAddI_setInbox h l
  case drw x y n => exact execDrw_setInbox h l
  case ldMemVx x => exact execLdMemVx_setInbox h l
  all_goals injection h with h; subst h; rfl

theorem unknownOpcode_setInbox {w : Word} {s t : State} (h : unknownOpcode w s = .next t) (l : List Event) :
    unknownOpcode w (s.setInbox l) = .next (t.setInbox l) := by
  rw [unknownOpcode_eq] at h ⊢
  injection h with h
  subst h
  rfl

theorem cycle_setInbox {s t : State} (h : cycle s = .next t) (l : List Event) :
    cycle (s.setInbox l) = .next (t.setInbox l) := by
  rw [cycle, State.fetchWord_setInbox]
  rw [cycle] at h
  split at h
  · exact exec_setInbox h l
  · exact unknownOpcode_setInbox h l

theorem applyEvent_setInbox {e : Event} {s t : State} (h : applyEvent e s = .next t) (l : List Event) :
    applyEvent e (s.setInbox l) = .next (t.setInbox l) := by
  cases e with
  | reset a =>
    obtain ⟨rfl, ha⟩ := resetEvent_next h
    rw [applyEvent_reset_of_ok ha, State.loaded_setInbox]
  | keys k => injection h with h; subst h; rfl
  | cycle r => rw [applyEvent, State.latchRand_setInbox]; exact cycle_setInbox h l
  | tick => injection h with h; subst h; rfl

/-- An event leaves the pending events as they are: put back in place of themselves, they change nothing. -/
theorem applyEvent_inbox {e : Event} {s t : State} (h : applyEvent e s = .next t) : t.inbox = s.inbox := by
  have hself : applyEvent e s = .next (t.setInbox s.inbox) := applyEvent_setInbox h s.inbox
  rw [h] at hself
  injection hself with hself
  rw [hself]
  rfl

/-- The step of a state with `e` first in its inbox is `e` (R5, R6). -/
theorem step_of_applyEvent {e : Event} {s t : State} (h : applyEvent e s = .next t) (rest : List Event) :
    step { s with inbox := e :: rest } = .next { t with inbox := rest } :=
  applyEvent_setInbox h rest

theorem core_run_of_runEvents {es : List Event} {s t : State} (h : runEvents es s = .next t) :
    core.run es.length { s with inbox := es ++ s.inbox } = .next t := by
  induction es generalizing s with
  | nil => exact h
  | cons e es ih =>
    obtain ⟨u, hu, hrest⟩ := runEvents_cons_next h
    rw [List.cons_append, List.length_cons, core_run_next _ (step_of_applyEvent hu _), ← applyEvent_inbox hu]
    exact ih hrest

/-! What the latches and the TICK leave of the reads. -/

@[simp] theorem State.fetchWord_latchKeys (s : State) (k : BitVec 16) : (s.latchKeys k).fetchWord = s.fetchWord := rfl

@[simp] theorem State.readV_latchKeys (s : State) (k : BitVec 16) (r : Reg) : (s.latchKeys k).readV r = s.readV r := rfl

@[simp] theorem State.readV_latchRand (s : State) (b : Option Byte) (r : Reg) : (s.latchRand b).readV r = s.readV r :=
  State.readV_eq_of_v_eq (State.latchRand_v s b) r

@[simp] theorem State.readV_tick (s : State) (r : Reg) : s.tick.readV r = s.readV r := rfl

@[simp] theorem State.fetchWord_nextEvent (s : State) : s.nextEvent.2.fetchWord = s.fetchWord := by
  rw [State.nextEvent_only_inbox]; rfl

/-- A reference iteration whose word decodes to `i` is `exec i`, with keys and RAND latched, and then the TICK. -/
theorem referenceIteration_cases {s t : State} {k : BitVec 16} {r : Byte} {i : Instr}
    (hi : decodeWord s.fetchWord = .ok i) (h : runEvents (referenceIteration k r) s = .next t) :
    ∃ c, exec i ((s.latchKeys k).latchRand (some r)) = .next c ∧ t = c.tick := by
  obtain ⟨c, hc⟩ := cycle_next ((s.latchKeys k).latchRand (some r))
  rw [runEvents_referenceIteration hc] at h
  injection h with h
  exact ⟨c, by rw [← hc, cycle_of_decodeWord (by simpa using hi)], h.symm⟩

/-- An iteration that executes `Fx15` leaves DT one below Vx (R185, R230). -/
theorem dt_after_setDelay_iteration {s t : State} {k : BitVec 16} {r : Byte} {x : Reg}
    (hi : decodeWord s.fetchWord = .ok (.ldDtVx x)) (h : runEvents (referenceIteration k r) s = .next t) :
    t.dt.toNat = (s.readV x).toNat - 1 := by
  obtain ⟨c, hc, rfl⟩ := referenceIteration_cases hi h
  injection hc with hc
  subst hc
  simp [countDown_toNat]

/-- An iteration that executes `Fx07` reads DT before its TICK counts it down (R184, R230). -/
theorem readV_and_dt_after_poll_iteration {s t : State} {k : BitVec 16} {r : Byte} {x : Reg}
    (hi : decodeWord s.fetchWord = .ok (.ldVxDt x)) (h : runEvents (referenceIteration k r) s = .next t) :
    t.readV x = s.dt ∧ t.dt.toNat = s.dt.toNat - 1 := by
  obtain ⟨c, hc, rfl⟩ := referenceIteration_cases hi h
  injection hc with hc
  subst hc
  simp [countDown_toNat]

/-! The statements. -/

/-- Settles O38: of the ends of `exec` (`exec_ends`) only STACK_UNDERFLOW is a fault. -/
theorem onlyAnEmptyReturnFaults : Obligations.OnlyAnEmptyReturnFaults := by
  refine ⟨fun i s => ?_, fun e s h => applyEvent_next h s⟩
  obtain ⟨t, ht⟩ := exec_next i s
  refine ⟨t, ht, ?_, ?_⟩
  · rintro ⟨f, hf⟩
    obtain ⟨hok, -⟩ | ⟨rfl, -, -⟩ | ⟨-, hret⟩ := exec_ends ht
    · cases hok.symm.trans hf
    · cases hf
    · exact hret
  · rintro ⟨rfl, hs⟩
    rw [exec_ret_of_stack_nil hs] at ht
    injection ht with ht
    exact ⟨_, congrArg State.status ht.symm⟩

/-- Settles O53, by induction on the sequence; steps follow because no event reads the pending ones. -/
theorem stepsTakeThePendingEvents : Obligations.StepsTakeThePendingEvents :=
  ⟨fun _ s h => runEvents_next h s, fun _ _ _ h => core_run_of_runEvents h⟩

/-- Settles O55: one TICK lies between the setting of DT and its reading, and a second one after it. -/
theorem pollAfterSettingDelayReadsOneLess : Obligations.PollAfterSettingDelayReadsOneLess := by
  intro s t u k k' r r' x y hset hrun hpoll hrun'
  have hdt := dt_after_setDelay_iteration hset hrun
  obtain ⟨hread, hdt'⟩ := readV_and_dt_after_poll_iteration hpoll hrun'
  rw [hread]
  omega

/-- Settles O51: taking the event and latching RAND leave the fetched word as it is. -/
theorem stepRunsTheDecodedInstruction : Obligations.StepRunsTheDecodedInstruction := by
  refine ⟨fun s t r i hnext hi => ?_, fun s hin hsch => ?_⟩
  · have hword : t.fetchWord = s.fetchWord := by simpa [hnext] using State.fetchWord_nextEvent s
    calc step s = cycle (t.latchRand r) := by simp only [step, hnext, applyEvent]
      _ = exec i (t.latchRand r) := cycle_of_decodeWord (by simpa [hword] using hi)
  · simp [step, State.nextEvent, hin, hsch, applyEvent, State.latchRand]

/-- Settles O54: every CYCLE has a next state, and the iteration goes on from it to its TICK. -/
theorem referenceIterationTicksAfterItsCycle : Obligations.ReferenceIterationTicksAfterItsCycle := by
  intro s k r
  obtain ⟨u, hu⟩ := cycle_next ((s.latchKeys k).latchRand (some r))
  exact ⟨u, hu, runEvents_referenceIteration hu⟩

end Sys2Proof.Machine
end

section
/-! PROOFS. The statements about the state, its frame and its invariants (10_state.md; 60_exceptions.md R227, R238;
70_reset_and_hazards.md R250 to R256). First what they share: the frame of `exec` and of an event, the inputs that `exec`
reads, and what RESET leaves. -/

namespace Sys2Proof.Machine

/-! The three instructions whose meaning branches, inverted once. -/

theorem exec_ret_cases {s t : State} (h : exec .ret s = .next t) :
    t = s.raise (.stackUnderflow s.pc) ∨ ∃ a, t = s.dropTop.endAt a := by
  simp only [exec, execRet] at h
  split at h <;> injection h with h
  · exact .inl h.symm
  · exact .inr ⟨_, h.symm⟩

theorem exec_ldVxK_cases {x : Reg} {s t : State} (h : exec (.ldVxK x) s = .next t) :
    t = { s with status := .waitKey } ∨ ∃ k, t = (s.writeV x (BitVec.ofNat 8 k)).endAt s.nextPc := by
  simp only [exec, execLdVxK] at h
  split at h <;> injection h with h
  · exact .inl h.symm
  · exact .inr ⟨_, h.symm⟩

theorem exec_addI_cases {x : Reg} {s t : State} (h : exec (.addI x) s = .next t) :
    t = ((s.setIndex (BitVec.ofNat 16 ((s.i.toNat + (s.readV x).toNat) % 0x1000))).flagIndexOverflow).endAt s.nextPc ∨
    (indexOverflow s.i (s.readV x) = false ∧ t = (s.setIndex (s.i + (s.readV x).setWidth 16)).endAt s.nextPc) := by
  simp only [exec, execAddI] at h
  split at h <;> injection h with h
  · exact .inl (by rw [← h, State.nextPc, State.flagIndexOverflow_pc]; rfl)
  · next hsmall => exact .inr ⟨by simpa using hsmall, h.symm⟩

/-! What no instruction writes, and what each may write (R238). -/

/-- No instruction writes the configuration, the host's events, RAND or the count of draws (R31, R33). -/
theorem exec_keeps_inputs {i : Instr} {s t : State} (h : exec i s = .next t) :
    SameHost s t ∧ t.rand = s.rand ∧ t.draws = s.draws := by
  cases i
  case ret => obtain rfl | ⟨a, rfl⟩ := exec_ret_cases h <;> simp [SameHost]
  case ldVxK x => obtain rfl | ⟨k, rfl⟩ := exec_ldVxK_cases h <;> simp [SameHost]
  case addI x => obtain rfl | ⟨-, rfl⟩ := exec_addI_cases h <;> simp [SameHost]
  all_goals injection h with h; subst h; simp [SameHost]

theorem exec_cfg {i : Instr} {s t : State} (h : exec i s = .next t) : t.cfg = s.cfg := by
  obtain ⟨⟨hcfg, -, -⟩, -, -⟩ := exec_keeps_inputs h
  exact hcfg

/-- A piece is the same when its field is; memory and registers are read from theirs. -/
def SameField : Part → State → State → Prop
  | .mem, s, t => t.mem = s.mem
  | .v, s, t => t.v = s.v
  | p, s, t => Same p s t

theorem Same.of_field {p : Part} {s t : State} (h : SameField p s t) : Same p s t := by
  cases p
  case mem => exact State.memRead_eq_of_mem_eq h
  case v => exact State.readV_eq_of_v_eq h
  all_goals exact h

/-- The CYCLE column of the frame table, instruction by instruction (R238). -/
theorem exec_keeps_part {i : Instr} {s t : State} {p : Part} (h : exec i s = .next t)
    (hp : instrMayChange p i = false) : Same p s t := by
  apply Same.of_field
  cases i
  case ret =>
    obtain rfl | ⟨a, rfl⟩ := exec_ret_cases h <;> cases p <;> simp [instrMayChange, SameField, Same] at hp ⊢
  case ldVxK x =>
    obtain rfl | ⟨k, rfl⟩ := exec_ldVxK_cases h <;> cases p <;> simp [instrMayChange, SameField, Same] at hp ⊢
  case addI x =>
    obtain rfl | ⟨-, rfl⟩ := exec_addI_cases h <;> cases p <;> simp [instrMayChange, SameField, Same] at hp ⊢
  all_goals
    injection h with h; subst h
    cases p <;> simp [instrMayChange, SameField, Same] at hp ⊢

/-! The frame of an event (R238). -/

theorem Same.of_latchRand {p : Part} {s t : State} {r : Option Byte} (h : Same p (s.latchRand r) t) : Same p s t := by
  cases r <;> cases p <;> exact h

theorem SameHost.of_latchRand {s t : State} {r : Option Byte} (h : SameHost (s.latchRand r) t) : SameHost s t := by
  cases r <;> exact h

theorem eventMayChange_cycle_latchRand (p : Part) (s : State) (r : Option Byte) :
    eventMayChange p (.cycle r) (s.latchRand r) = eventMayChange p (.cycle r) s := by
  simp only [eventMayChange, State.fetchWord_latchRand]

theorem cycle_sameHost {s t : State} (h : cycle s = .next t) : SameHost s t := by
  obtain ⟨i, -, hi⟩ | ⟨-, rfl⟩ := cycle_cases h
  · exact (exec_keeps_inputs hi).1
  · exact ⟨rfl, rfl, rfl⟩

theorem cycle_keeps_part {p : Part} {s t : State} {r : Option Byte} (h : cycle s = .next t)
    (hp : eventMayChange p (.cycle r) s = false) : Same p s t := by
  obtain ⟨i, hi, hexec⟩ | ⟨⟨e, he⟩, rfl⟩ := cycle_cases h
  · exact exec_keeps_part hexec (by simpa only [eventMayChange, hi] using hp)
  · have hpc : p ≠ .pc := by simpa [eventMayChange, he] using hp
    apply Same.of_field
    cases p <;> simp [SameField, Same] at hpc ⊢

theorem applyEvent_sameHost {e : Event} {s t : State} (he : e.isReset = false) (h : applyEvent e s = .next t) :
    SameHost s t := by
  cases e with
  | reset a => cases he
  | keys k => injection h with h; subst h; exact ⟨rfl, rfl, rfl⟩
  | cycle r => exact (cycle_sameHost h).of_latchRand
  | tick => injection h with h; subst h; exact ⟨rfl, rfl, rfl⟩

theorem applyEvent_keeps_part {e : Event} {s t : State} {p : Part} (he : e.isReset = false)
    (h : applyEvent e s = .next t) (hp : eventMayChange p e s = false) : Same p s t := by
  cases e with
  | reset a => cases he
  | keys k =>
    injection h with h; subst h
    apply Same.of_field
    cases p <;> simp [eventMayChange, SameField, Same] at hp ⊢
  | cycle r => exact (cycle_keeps_part h ((eventMayChange_cycle_latchRand p s r).trans hp)).of_latchRand
  | tick =>
    injection h with h; subst h
    apply Same.of_field
    cases p <;> simp [eventMayChange, SameField, Same] at hp ⊢

/-- The three statuses that keep PC (R183, R221, R222). -/
theorem cycle_keeps_pc {s t : State} (h : cycle s = .next t)
    (hst : t.status = .waitKey ∨ (∃ a, t.status = .fault (.stackUnderflow a)) ∨
      ((∃ w a, t.status = .fault (.unknownOpcode w a)) ∧ s.cfg.allowUnknown = false)) : t.pc = s.pc := by
  obtain ⟨i, -, hi⟩ | ⟨-, rfl⟩ := cycle_cases h
  · obtain ⟨hok, -⟩ | ⟨rfl, -, -⟩ | ⟨rfl, -, -⟩ := exec_ends hi
    · simp [hok] at hst
    · rfl
    · rfl
  · have hallow : s.cfg.allowUnknown = false := by simpa using hst
    simp [hallow]

/-! What RESET leaves (R250 to R256). -/

/-- Every register and pixel is 0 after RESET, and so is all else but memory and PC (R251). -/
theorem State.loaded_zero (s : State) (a : ResetArgs) :
    (∀ r : Reg, (s.loaded a).readV r = 0) ∧ (s.loaded a).i = 0 ∧ (s.loaded a).pc = 0x200 ∧ (s.loaded a).stack = [] ∧
      (s.loaded a).dt = 0 ∧ (s.loaded a).st = 0 ∧ (∀ r c, (s.loaded a).pixel r c = false) ∧ (s.loaded a).keys = 0 := by
  rw [State.loaded_only_mem]
  refine ⟨fun r => ?_, rfl, rfl, rfl, rfl, rfl, fun r c => ?_, rfl⟩
  · simp [State.readV, State.zeroed, State.reset]
  · simp [State.pixel, State.zeroed, State.reset]

/-- Settles O44: the frame table instruction by instruction, lifted to the CYCLE and the other events. -/
theorem eventsChangeOnlyWhatTheFrameTableAllows : Obligations.EventsChangeOnlyWhatTheFrameTableAllows := by
  refine ⟨fun e s t he h => ⟨fun p hp => applyEvent_keeps_part he h hp, applyEvent_sameHost he h⟩,
    fun r s t h hst => ?_, fun a s t h => ?_⟩
  · simpa using cycle_keeps_pc (s := s.latchRand r) h (by simpa using hst)
  · obtain ⟨rfl, -⟩ := resetEvent_next h
    exact s.loaded_zero a

end Sys2Proof.Machine
end

section
/-! PROOFS. The invariants of the state (10_state.md R23, R36, R37; 60_exceptions.md R227): canonical memory, the record of the
first fault, and I within 12 bits. Each is kept by `exec`, so by a CYCLE, so by an event, so by a step. -/

namespace Sys2Proof.Machine

/-! Canonical memory (R37, R52). -/

theorem exec_wf {i : Instr} {s t : State} (hm : s.mem.wf = true) (h : exec i s = .next t) : t.mem.wf = true := by
  cases i
  case ret => obtain rfl | ⟨a, rfl⟩ := exec_ret_cases h <;> exact hm
  case ldVxK x => obtain rfl | ⟨k, rfl⟩ := exec_ldVxK_cases h <;> exact hm
  case addI x => obtain rfl | ⟨-, rfl⟩ := exec_addI_cases h <;> simpa using hm
  case ldB x => injection h with h; subst h; exact State.memWriteList_wf hm _ _
  case ldMemVx x => injection h with h; subst h; exact State.memWriteList_wf hm _ _
  all_goals injection h with h; subst h; simpa using hm

theorem cycle_wf {s t : State} (hm : s.mem.wf = true) (h : cycle s = .next t) : t.mem.wf = true := by
  obtain ⟨i, -, hi⟩ | ⟨-, rfl⟩ := cycle_cases h
  · exact exec_wf hm hi
  · exact hm

/-! The record of the first fault (R36, R227). -/

/-- What is on record after a CYCLE that returned `st`, when `old` was on record before it. -/
def recordAfter (old : Option Fault) : Status → Option Fault
  | .fault f => old.or (some f)
  | _ => old

theorem recordAfter_of_some {old : Option Fault} {f : Fault} (h : old = some f) (st : Status) :
    recordAfter old st = some f := by
  cases st <;> simp [recordAfter, h]

theorem recordAfter_fault_ne_none (old : Option Fault) (f : Fault) : recordAfter old (.fault f) ≠ none := by
  simp [recordAfter]

theorem cycle_firstFault {s t : State} (h : cycle s = .next t) : t.firstFault = recordAfter s.firstFault t.status := by
  obtain ⟨i, -, hi⟩ | ⟨-, rfl⟩ := cycle_cases h
  · obtain ⟨hok, hrec⟩ | ⟨rfl, -, -⟩ | ⟨rfl, -, -⟩ := exec_ends hi
    · rw [hok, hrec]; rfl
    · rfl
    · rfl
  · rfl

theorem applyEvent_keeps_firstFault {e : Event} {s t : State} {f : Fault} (he : e.isReset = false)
    (h : applyEvent e s = .next t) (hf : s.firstFault = some f) : t.firstFault = some f := by
  cases e with
  | reset a => cases he
  | keys k => injection h with h; subst h; exact hf
  | cycle r => exact (cycle_firstFault h).trans (recordAfter_of_some (by simpa using hf) _)
  | tick => injection h with h; subst h; exact hf

/-- Settles O59: what each end of a CYCLE does to the record, and that KEYS and TICK leave it. -/
theorem firstFaultStaysOnRecord : Obligations.FirstFaultStaysOnRecord := by
  refine ⟨fun s t h => ?_, fun e s t f he h hf => applyEvent_keeps_firstFault he h hf⟩
  rw [cycle_firstFault h]
  cases t.status <;> rfl

theorem applyEvent_inv {e : Event} {s t : State} (hs : Inv s) (h : applyEvent e s = .next t) : Inv t := by
  obtain ⟨hm, hrec⟩ := hs
  cases e with
  | reset a =>
    obtain ⟨rfl, -⟩ := resetEvent_next h
    refine ⟨s.loaded_wf a, fun f hf => ?_⟩
    rw [State.loaded_only_mem] at hf
    cases hf
  | keys k => injection h with h; subst h; exact ⟨hm, hrec⟩
  | cycle r =>
    refine ⟨cycle_wf (by simpa using hm) h, fun f hf => ?_⟩
    rw [cycle_firstFault h, hf]
    exact recordAfter_fault_ne_none _ f
  | tick => injection h with h; subst h; exact ⟨hm, hrec⟩

/-- What every event keeps, every step keeps, when taking the event off the inbox keeps it too (R5, R6). -/
theorem step_keeps {P : State → Prop} (hinbox : ∀ s l, P s → P (s.setInbox l))
    (hevent : ∀ e s t, P s → applyEvent e s = .next t → P t) {s t : State} (hs : P s) (h : step s = .next t) : P t := by
  refine hevent _ _ _ ?_ h
  rw [State.nextEvent_only_inbox]
  exact hinbox s _ hs

/-- Settles O56: every event keeps the canonical form and the record. -/
theorem stepKeepsInv : Obligations.StepKeepsInv :=
  fun _ _ hs h => step_keeps (fun _ _ hs => hs) (fun _ _ _ hs he => applyEvent_inv hs he) hs h

/-! I within 12 bits (R23). -/

theorem toNat_add_le_of_not_indexOverflow {i : Word} {b : Byte} (h : indexOverflow i b = false) :
    (i + b.setWidth 16).toNat ≤ 0xFFF := by
  simp only [indexOverflow, decide_eq_false_iff_not] at h
  simp only [BitVec.toNat_add, BitVec.toNat_setWidth]
  omega

theorem glyphAddr_le (b : Byte) : (glyphAddr b).toNat ≤ 0xFFF := by
  have := b.isLt
  rw [glyphAddr, BitVec.toNat_ofNat, Nat.mod_eq_of_lt (by omega)]
  omega

theorem State.indexAfterBlock_of_unchanged {s : State} (h : s.cfg.storeLoadMode = .unchanged) (x : Reg) :
    s.indexAfterBlock x = s.i := by
  simp [State.indexAfterBlock, h]

theorem exec_index_le {i : Instr} {s t : State} (hmode : s.cfg.storeLoadMode = .unchanged) (hs : s.i.toNat ≤ 0xFFF)
    (h : exec i s = .next t) : t.i.toNat ≤ 0xFFF := by
  cases i
  case ldI nnn =>
    injection h with h; subst h
    have := nnn.isLt
    simp only [State.endAt_i, State.setIndex_i, BitVec.toNat_setWidth]
    omega
  case addI x =>
    obtain rfl | ⟨hsmall, rfl⟩ := exec_addI_cases h
    · simp only [State.endAt_i, State.flagIndexOverflow_i, State.setIndex_i, BitVec.toNat_ofNat]
      omega
    · exact toNat_add_le_of_not_indexOverflow hsmall
  case ldF x => injection h with h; subst h; exact glyphAddr_le _
  case ldMemVx x => injection h with h; subst h; simpa [State.indexAfterBlock_of_unchanged hmode] using hs
  case ldVxMem x => injection h with h; subst h; simpa [State.indexAfterBlock_of_unchanged hmode] using hs
  all_goals exact (congrArg BitVec.toNat (exec_keeps_part (p := .i) h rfl)).trans_le hs

theorem cycle_indexIn12Bits {s t : State} (hs : IndexIn12Bits s) (h : cycle s = .next t) : IndexIn12Bits t := by
  obtain ⟨i, -, hi⟩ | ⟨-, rfl⟩ := cycle_cases h
  · intro hmode
    rw [exec_cfg hi] at hmode
    exact exec_index_le hmode (hs hmode) hi
  · exact hs

theorem applyEvent_indexIn12Bits {e : Event} {s t : State} (hs : IndexIn12Bits s) (h : applyEvent e s = .next t) :
    IndexIn12Bits t := by
  cases e with
  | reset a =>
    obtain ⟨rfl, -⟩ := resetEvent_next h
    rw [State.loaded_only_mem]
    exact fun _ => Nat.zero_le _
  | keys k => injection h with h; subst h; exact hs
  | cycle r => exact cycle_indexIn12Bits (by simpa [IndexIn12Bits] using hs) h
  | tick => injection h with h; subst h; exact hs

/-- Settles O58: the five instructions that write I, and RESET, leave it within 12 bits. -/
theorem stepKeepsIndexIn12Bits : Obligations.StepKeepsIndexIn12Bits :=
  fun _ _ hs h => step_keeps (fun _ _ hs => hs) (fun _ _ _ hs he => applyEvent_indexIn12Bits hs he) hs h

end Sys2Proof.Machine
end

section
/-! PROOFS. Which inputs an instruction reads (10_state.md R31 to R33): its own quirk, and RAND only for `Cxnn`. -/

namespace Sys2Proof.Machine

/-- The state under another configuration and another RAND. -/
def State.rebind (s : State) (c : Config) (r : Byte) : State := { s with cfg := c, rand := r }

@[simp] theorem State.rebind_i (s : State) (c : Config) (r : Byte) : (s.rebind c r).i = s.i := rfl

@[simp] theorem State.rebind_stack (s : State) (c : Config) (r : Byte) : (s.rebind c r).stack = s.stack := rfl

@[simp] theorem State.rebind_cfg (s : State) (c : Config) (r : Byte) : (s.rebind c r).cfg = c := rfl

@[simp] theorem State.readV_rebind (s : State) (c : Config) (r : Byte) (x : Reg) :
    (s.rebind c r).readV x = s.readV x := rfl

@[simp] theorem State.leastKey_rebind (s : State) (c : Config) (r : Byte) : (s.rebind c r).leastKey = s.leastKey := rfl

@[simp] theorem State.drawSprite_rebind (s : State) (c : Config) (r : Byte) (x y : Reg) (n : BitVec 4) :
    (s.rebind c r).drawSprite x y n = s.drawSprite x y n :=
  State.drawRows_congr (s := s) (t := s.rebind c r) rfl rfl _ _ _ _ _ _

theorem State.memWriteList_rebind (s : State) (c : Config) (r : Byte) (a : Nat) (bs : List Byte) :
    (s.rebind c r).memWriteList a bs = (s.memWriteList a bs).rebind c r := by
  induction bs generalizing s a with
  | nil => rfl
  | cons b bs ih => exact ih (s.memWrite a b) (a + 1)

/-! Each operand that a quirk selects is the same under a configuration with the same quirk (R31). -/

theorem State.shiftSource_rebind {s : State} {c : Config} (h : s.cfg.shiftMode = c.shiftMode) (r : Byte) (x y : Reg) :
    (s.rebind c r).shiftSource x y = s.shiftSource x y := by
  simp [State.shiftSource, h]

theorem State.jumpBase_rebind {s : State} {c : Config} (h : s.cfg.jmpOffsetMode = c.jmpOffsetMode) (r : Byte) (x : Reg) :
    (s.rebind c r).jumpBase x = s.jumpBase x := by
  simp [State.jumpBase, h]

theorem State.indexAfterBlock_rebind {s : State} {c : Config} (h : s.cfg.storeLoadMode = c.storeLoadMode) (r : Byte)
    (x : Reg) : (s.rebind c r).indexAfterBlock x = s.indexAfterBlock x := by
  simp [State.indexAfterBlock, h]

theorem State.flagIndexOverflow_rebind {s : State} {c : Config} (h : s.cfg.addIndexMode = c.addIndexMode) (r : Byte) :
    (s.rebind c r).flagIndexOverflow = s.flagIndexOverflow.rebind c r := by
  simp only [State.flagIndexOverflow, State.rebind_cfg, ← h]
  cases s.cfg.addIndexMode <;> rfl

/-! The three instructions that branch, one by one. -/

theorem execRet_rebind {s t : State} (h : execRet s = .next t) (c : Config) (r : Byte) :
    execRet (s.rebind c r) = .next (t.rebind c r) := by
  rw [execRet, State.rebind_stack]
  rw [execRet] at h
  split at h <;> (injection h with h; subst h; rfl)

theorem execLdVxK_rebind {x : Reg} {s t : State} (h : execLdVxK x s = .next t) (c : Config) (r : Byte) :
    execLdVxK x (s.rebind c r) = .next (t.rebind c r) := by
  rw [execLdVxK, State.leastKey_rebind]
  rw [execLdVxK] at h
  split at h <;> (injection h with h; subst h; rfl)

theorem execAddI_rebind {x : Reg} {s t : State} {c : Config} (hq : s.cfg.addIndexMode = c.addIndexMode)
    (h : execAddI x s = .next t) (r : Byte) : execAddI x (s.rebind c r) = .next (t.rebind c r) := by
  rw [execAddI, State.rebind_i, State.readV_rebind]
  rw [execAddI] at h
  by_cases ho : indexOverflow s.i (s.readV x) = true
  · rw [if_pos ho] at h ⊢
    injection h with h; subst h
    have hflag (w : Word) := State.flagIndexOverflow_rebind (s := s.setIndex w) hq r
    exact congrArg advance (hflag _)
  · rw [if_neg ho] at h ⊢
    injection h with h; subst h
    rfl

/-- `exec` reads no part of the configuration but the instruction's own quirk, and RAND only through the byte of `Cxnn`. -/
theorem exec_rebind {i : Instr} {s t : State} {c : Config} {r : Byte} (hq : quirkAgrees s.cfg c i)
    (hr : (∃ x nn, i = .rnd x nn) → (s.rebind c r).randomByte = s.randomByte) (h : exec i s = .next t) :
    exec i (s.rebind c r) = .next (t.rebind c r) := by
  cases i
  case ret => exact execRet_rebind h c r
  case ldVxK x => exact execLdVxK_rebind h c r
  case addI x => exact execAddI_rebind hq h r
  case shr x y => injection h with h; subst h; simp only [exec, execShr, State.shiftSource_rebind hq]; rfl
  case shl x y => injection h with h; subst h; simp only [exec, execShl, State.shiftSource_rebind hq]; rfl
  case jpV0 nnn x => injection h with h; subst h; simp only [exec, execJpV0, State.jumpBase_rebind hq]; rfl
  case rnd x nn => injection h with h; subst h; simp only [exec, execRnd, hr ⟨x, nn, rfl⟩]; rfl
  case drw x y n => injection h with h; subst h; simp only [exec, execDrw, State.drawSprite_rebind]; rfl
  case ldMemVx x =>
    injection h with h; subst h
    simp only [exec, execLdMemVx, State.memWriteList_rebind, State.indexAfterBlock_rebind hq]; rfl
  case ldVxMem x =>
    injection h with h; subst h; simp only [exec, execLdVxMem, State.indexAfterBlock_rebind hq]; rfl
  all_goals injection h with h; subst h; rfl

theorem quirkAgrees_refl (c : Config) (i : Instr) : quirkAgrees c c i := by
  cases i <;> simp [quirkAgrees]

/-- Settles O45: RAND stays as it is, so the byte of `Cxnn` is the same by its own quirk. -/
theorem quirksAffectOnlyTheirInstructions : Obligations.QuirksAffectOnlyTheirInstructions := by
  intro i s t c hq h
  obtain ⟨-, hrand, -⟩ := exec_keeps_inputs h
  have hrnd : (∃ x nn, i = .rnd x nn) → (s.rebind c s.rand).randomByte = s.randomByte := by
    rintro ⟨x, nn, rfl⟩
    have hmode : s.cfg.randomMode = c.randomMode := hq
    simp [State.randomByte, State.rebind, hmode]
  calc exec i (s.rebind c s.rand) = .next (t.rebind c s.rand) := exec_rebind hq hrnd h
    _ = .next (t.rebind c t.rand) := by rw [hrand]

/-- Settles O46: the configuration stays as it is, and under `zero` the byte of `Cxnn` is 0 whatever RAND is. -/
theorem randIsReadOnlyByRnd : Obligations.RandIsReadOnlyByRnd := by
  intro i s t r hzero h
  have hrnd : (∃ x nn, i = .rnd x nn) → (s.rebind s.cfg r).randomByte = s.randomByte := fun hi => by
    simp [State.randomByte, hzero hi]
  calc exec i (s.rebind s.cfg r) = .next (t.rebind s.cfg r) := exec_rebind (quirkAgrees_refl s.cfg i) hrnd h
    _ = .next (t.rebind t.cfg r) := by rw [exec_cfg h]

end Sys2Proof.Machine
end

section
/-! PROOFS. What RESET and KEYS leave (70_reset_and_hazards.md R250 to R255; 10_state.md R29, R38). -/

namespace Sys2Proof.Machine

/-! Memory after RESET: `inject_ram` over the image over FONT over 0 (R252 to R254). -/

/-- A cell that a pair names holds the pair's value, when no two pairs name one cell. -/
theorem State.memRead_injectRam_of_mem {s : State} (hm : s.mem.wf = true) {l : List (Nat × Nat)}
    (hlt : ∀ p ∈ l, p.1 < 4096) (hnd : (l.map Prod.fst).Nodup) {p : Nat × Nat} (hp : p ∈ l) :
    (s.injectRam l).memRead p.1 = BitVec.ofNat 8 p.2 := by
  induction l generalizing s with
  | nil => cases hp
  | cons q l ih =>
    obtain ⟨hq, hnd'⟩ := List.nodup_cons.mp hnd
    have hlt' : ∀ p' ∈ l, p'.1 < 4096 := fun p' hp' => hlt p' (List.mem_cons_of_mem _ hp')
    rw [State.injectRam]
    obtain rfl | hp := List.mem_cons.mp hp
    · rw [State.memRead_injectRam_other l, State.memRead_memWrite hm, if_pos rfl]
      intro p' hp' e
      rw [Nat.mod_eq_of_lt (hlt' p' hp'), Nat.mod_eq_of_lt (hlt p (List.mem_cons_self ..))] at e
      exact hq (e ▸ List.mem_map_of_mem hp')
    · exact ih (State.memWrite_wf hm _ _) hlt' hnd' hp

/-- A block that stays below 4096 reads as its bytes from `a` on, and past it as before. -/
theorem State.memRead_memWriteList_getD {s : State} (hm : s.mem.wf = true) {a : Nat} {bs : List Byte}
    (hlen : a + bs.length ≤ 4096) {c : Nat} (hac : a ≤ c) (hc : c < 4096) (h0 : a + bs.length ≤ c → s.memRead c = 0) :
    (s.memWriteList a bs).memRead c = bs.getD (c - a) 0 := by
  by_cases h : c < a + bs.length
  · have hk : c - a < bs.length := by omega
    have hread := State.memRead_memWriteList_inside hm a bs (by omega) (c - a) hk
    rw [Nat.add_sub_cancel' hac] at hread
    rw [hread, List.getD_eq_getElem _ _ hk]
  · rw [State.memRead_memWriteList_outside, h0 (by omega), List.getD_eq_default _ _ (by omega)]
    rintro ⟨k, hk, e⟩
    omega

/-- Before the loading, a cell above the font reads as 0. -/
theorem State.memRead_zeroed (s : State) (cfg : Config) {c : Nat} (h80 : 80 ≤ c) (hc : c < 4096) :
    (s.zeroed cfg).memRead c = 0 := by
  rw [State.memRead, Nat.mod_eq_of_lt hc]
  exact background_above_font c h80

/-- FONT of 80 bytes from 0x000, and 0 above it (R252). -/
theorem State.memRead_font {s : State} {cfg : Config} {font : List Byte} (hfont : font.length = 80) {c : Nat}
    (hc : c < 4096) : ((s.zeroed cfg).memWriteList 0 font).memRead c = font.getD c 0 :=
  State.memRead_memWriteList_getD rfl (by omega) (Nat.zero_le c) hc fun h => s.memRead_zeroed cfg (by omega) hc

theorem State.memRead_loaded_low (s : State) {a : ResetArgs} (ha : a.ok) {c : Nat} (hc : c < 0x200)
    (hinj : ∀ p ∈ a.inject, p.1 ≠ c) : (s.loaded a).memRead c = a.font.getD c 0 := by
  obtain ⟨hfont, himage, hrange, -⟩ := ha
  rw [State.loaded, State.memRead_injectRam_other, State.memRead_memWriteList_outside,
    State.memRead_font hfont (by omega)]
  · rintro ⟨k, hk, e⟩
    omega
  · intro p hp
    have := (hrange p hp).1
    have := hinj p hp
    omega

theorem State.memRead_loaded_high (s : State) {a : ResetArgs} (ha : a.ok) {c : Nat} (h200 : 0x200 ≤ c) (hc : c < 4096)
    (hinj : ∀ p ∈ a.inject, p.1 ≠ c) : (s.loaded a).memRead c = a.image.getD (c - 0x200) 0 := by
  obtain ⟨hfont, himage, hrange, -⟩ := ha
  rw [State.loaded, State.memRead_injectRam_other]
  · refine State.memRead_memWriteList_getD (State.memWriteList_wf rfl _ _) (by omega) h200 hc fun _ => ?_
    rw [State.memRead_font hfont hc, List.getD_eq_default _ _ (by omega)]
  · intro p hp
    have := (hrange p hp).1
    have := hinj p hp
    omega

theorem State.memRead_loaded_inject (s : State) {a : ResetArgs} (ha : a.ok) {p : Nat × Nat} (hp : p ∈ a.inject) :
    ((s.loaded a).memRead p.1).toNat = p.2 := by
  obtain ⟨-, -, hrange, hnd⟩ := ha
  rw [State.loaded, State.memRead_injectRam_of_mem (State.memWriteList_wf (State.memWriteList_wf rfl _ _) _ _)
    (fun q hq => Nat.lt_succ_of_le (hrange q hq).1) hnd hp, BitVec.toNat_ofNat]
  exact Nat.mod_eq_of_lt (Nat.lt_succ_of_le (hrange p hp).2)

theorem applyEvent_reset_of_not_ok {a : ResetArgs} (h : ¬ a.ok) (s : State) :
    ∃ r, applyEvent (.reset a) s = .refused r := by
  rw [← ResetArgs.problem_eq_none_iff] at h
  obtain ⟨r, hr⟩ := Option.ne_none_iff_exists'.mp h
  exact ⟨r, by simp [applyEvent, resetEvent, hr]⟩

/-- Settles O47: arguments out of range are not `ok`, so refused; the others are loaded in the order of R252 to R254. -/
theorem resetBuildsTheStartUpState : Obligations.ResetBuildsTheStartUpState := by
  refine ⟨fun a s hbad => applyEvent_reset_of_not_ok ?_ s, fun a s ha => ?_⟩
  · rintro ⟨hfont, himage, hrange, -⟩
    obtain h | h | ⟨p, hp, h⟩ := hbad
    · exact h hfont
    · omega
    · have := hrange p hp
      omega
  · obtain ⟨hv, hi, hpc, hstack, hdt, hst, hpixel, hkeys⟩ := s.loaded_zero a
    exact ⟨s.loaded a, applyEvent_reset_of_ok ha s, fun p hp => s.memRead_loaded_inject ha hp,
      fun c hc hinj => s.memRead_loaded_low ha hc hinj, fun c h200 hc hinj => s.memRead_loaded_high ha h200 hc hinj,
      hv, hi, hpc, hstack, hdt, hst, hpixel, hkeys, by rw [State.loaded_only_mem]; rfl⟩

/-- Settles O41: KEYS latches the whole vector of flags and is a frame on everything else. -/
theorem keysLatchesAllFlags : Obligations.KeysLatchesAllFlags := by
  intro s k
  refine ⟨s.latchKeys k, rfl, fun i _ => rfl, rfl, fun p hp => ?_, ⟨rfl, rfl, rfl⟩, rfl, rfl⟩
  exact applyEvent_keeps_part (e := .keys k) rfl rfl (by simpa [eventMayChange] using hp)

/-- Settles O48: unlisted memory reads as the font and 0 above it, and the registers and pixels are all 0. -/
theorem resetStateHoldsTheResetValues : Obligations.ResetStateHoldsTheResetValues := by
  have hread : ∀ a, a < 4096 → State.reset.memRead a = background a := fun a ha => by
    rw [State.memRead, Nat.mod_eq_of_lt ha]; rfl
  refine ⟨fun a ha => hread a (by omega), fun a h80 ha => (hread a ha).trans (background_above_font a h80),
    fun r => ?_, rfl, rfl, rfl, rfl, rfl, fun r c => ?_, rfl, rfl⟩
  · simp [State.readV, State.reset]
  · simp [State.pixel, State.reset]

end Sys2Proof.Machine
end

section
/-! PROOFS. Every well-formed instruction is decoded back from its word (30_encoding.md R71 to R74), by the fields of
the three formats of R72. -/

namespace Sys2Proof

@[simp] theorem fieldOp_formNNN (op : BitVec 4) (nnn : Addr) : fieldOp (formNNN op nnn) = op := by
  have := nnn.isLt
  apply BitVec.eq_of_toNat_eq
  rw [fieldOp_toNat, formNNN_toNat]
  omega

@[simp] theorem fieldNNN_formNNN (op : BitVec 4) (nnn : Addr) : fieldNNN (formNNN op nnn) = nnn := by
  have := nnn.isLt
  apply BitVec.eq_of_toNat_eq
  rw [fieldNNN_toNat, formNNN_toNat]
  omega

/-- The `x` of a word of format `NNN` is the top nibble of its `nnn` (R72, R104). -/
theorem fieldX_formNNN_val (op : BitVec 4) (nnn : Addr) : (fieldX (formNNN op nnn)).val = nnn.toNat / 256 := by
  have := nnn.isLt
  rw [fieldX_val, formNNN_toNat]
  omega

@[simp] theorem fieldOp_formXNN (op : BitVec 4) (x : Reg) (nn : Byte) : fieldOp (formXNN op x nn) = op := by
  have := nn.isLt
  apply BitVec.eq_of_toNat_eq
  rw [fieldOp_toNat, formXNN_toNat]
  omega

@[simp] theorem fieldX_formXNN (op : BitVec 4) (x : Reg) (nn : Byte) : fieldX (formXNN op x nn) = x := by
  have := nn.isLt
  apply Fin.ext
  rw [fieldX_val, formXNN_toNat]
  omega

@[simp] theorem fieldNN_formXNN (op : BitVec 4) (x : Reg) (nn : Byte) : fieldNN (formXNN op x nn) = nn := by
  have := nn.isLt
  apply BitVec.eq_of_toNat_eq
  rw [fieldNN_toNat, formXNN_toNat]
  omega

@[simp] theorem fieldOp_formXYN (op : BitVec 4) (x y : Reg) (n : BitVec 4) : fieldOp (formXYN op x y n) = op := by
  have := n.isLt
  apply BitVec.eq_of_toNat_eq
  rw [fieldOp_toNat, formXYN_toNat]
  omega

@[simp] theorem fieldX_formXYN (op : BitVec 4) (x y : Reg) (n : BitVec 4) : fieldX (formXYN op x y n) = x := by
  have := n.isLt
  apply Fin.ext
  rw [fieldX_val, formXYN_toNat]
  omega

@[simp] theorem fieldY_formXYN (op : BitVec 4) (x y : Reg) (n : BitVec 4) : fieldY (formXYN op x y n) = y := by
  have := n.isLt
  apply Fin.ext
  rw [fieldY_val, formXYN_toNat]
  omega

@[simp] theorem fieldN_formXYN (op : BitVec 4) (x y : Reg) (n : BitVec 4) : fieldN (formXYN op x y n) = n := by
  have := n.isLt
  apply BitVec.eq_of_toNat_eq
  rw [fieldN_toNat, formXYN_toNat]
  omega

/-- Only `Bnnn` needs the well-formedness: its word carries `x` as the top nibble of `nnn` alone. -/
theorem decodeWord_encode {i : Instr} (h : i.wellFormed = true) : decodeWord (encode i) = .ok i := by
  cases i
  case cls => rfl
  case ret => rfl
  case jpV0 nnn x =>
    have hx : fieldX (formNNN 0xB#4 nnn) = x := Fin.ext ((fieldX_formNNN_val _ nnn).trans (beq_iff_eq.mp h))
    simp [encode, decodeWord, hx]
  all_goals simp [encode, decodeWord, decodeOp8, decodeOpE, decodeOpF]

end Sys2Proof
end

section
/-! PROOFS. Memory and fetch (20_memory.md R50 to R59): what a read takes and a write changes, the canonical form as the
one form of a memory, the fetched word and its two bytes, and the word that `withFetchWord` places. -/

namespace Sys2Proof

@[simp] theorem highByte_wordOfBytes (hi lo : Byte) : highByte (wordOfBytes hi lo) = hi := by
  have := lo.isLt
  apply BitVec.eq_of_toNat_eq
  rw [highByte_toNat, wordOfBytes_toNat]
  omega

@[simp] theorem lowByte_wordOfBytes (hi lo : Byte) : lowByte (wordOfBytes hi lo) = lo := by
  have := lo.isLt
  apply BitVec.eq_of_toNat_eq
  rw [lowByte_toNat, wordOfBytes_toNat]
  omega

theorem word_eq_of_bytes {w w' : Word} (hhigh : highByte w = highByte w') (hlow : lowByte w = lowByte w') : w = w' := by
  rw [← wordOfBytes_high_low w, hhigh, hlow, wordOfBytes_high_low]

/-- A word of all 16 bits is its own table word (R10). -/
@[simp] theorem tableWord_toNat (w : Word) : tableWord 16 w.toNat = w := by
  rw [tableWord, Nat.mod_eq_of_lt w.isLt, BitVec.ofNat_toNat, BitVec.setWidth_eq]

end Sys2Proof

namespace Sys2Proof.Machine

/-! Reads and writes (R52). -/

theorem State.memRead_mod (s : State) (a : Nat) : s.memRead (a % 4096) = s.memRead a := by
  rw [State.memRead, State.memRead, Nat.mod_mod]

theorem State.memWrite_frame (s : State) (a : Nat) (v : Byte) : Frame [.mem] s (s.memWrite a v) := by
  refine ⟨fun p hp => Same.of_field ?_, ⟨rfl, rfl, rfl⟩, rfl, rfl⟩
  cases p
  case mem => simp at hp
  all_goals rfl

/-- Settles O8: the read after a write (`State.memRead_memWrite`), its frame, and the canonical form that it keeps. -/
theorem memoryReadsWhatWasWritten : Obligations.MemoryReadsWhatWasWritten := by
  refine ⟨fun s a => (s.memRead_mod a).symm, fun s a v hm => ⟨?_, fun b hb => ?_, s.memWrite_frame a v, ?_⟩⟩
  · rw [State.memRead_memWrite hm, if_pos rfl]
  · rw [State.memRead_memWrite hm, if_neg hb]
  · exact State.memWrite_wf hm a v

/-! The canonical form (R50, log entry 5). -/

theorem Memory.wfFrom_cons {lo a : Nat} {v : Byte} {m : Memory} :
    Memory.wfFrom lo ((a, v) :: m) = true ↔
      lo ≤ a ∧ a < 4096 ∧ v ≠ background a ∧ Memory.wfFrom (a + 1) m = true := by
  simp [Memory.wfFrom, and_assoc]

theorem Memory.read_cons_self (a : Nat) (v : Byte) (m : Memory) : Memory.read ((a, v) :: m) a = v := by
  rw [Memory.read, if_pos rfl]

theorem Memory.read_cons_ne {a c : Nat} (v : Byte) (m : Memory) (h : c ≠ a) :
    Memory.read ((a, v) :: m) c = Memory.read m c := by
  rw [Memory.read, if_neg h]

/-- An address that a canonical memory does not read as unlisted is at or above the bound of the form. -/
theorem Memory.le_of_read_ne {m : Memory} {lo a : Nat} (hm : Memory.wfFrom lo m = true)
    (h : Memory.read m a ≠ background a) : lo ≤ a :=
  Nat.le_of_not_lt fun hlt => h (Memory.read_below hm hlt)

/-- The first entry of one memory lies at or above the first entry of another that reads the same there. -/
theorem Memory.head_le_of_read_eq {lo lo' a b : Nat} {v w : Byte} {m m' : Memory}
    (hm : Memory.wfFrom lo ((a, v) :: m) = true) (hm' : Memory.wfFrom lo' ((b, w) :: m') = true)
    (h : Memory.read ((a, v) :: m) a = Memory.read ((b, w) :: m') a) : b ≤ a := by
  obtain ⟨-, -, hv, -⟩ := Memory.wfFrom_cons.mp hm
  obtain ⟨-, hb, hw, htail⟩ := Memory.wfFrom_cons.mp hm'
  refine Memory.le_of_read_ne (Memory.wfFrom_cons.mpr ⟨le_refl b, hb, hw, htail⟩) ?_
  rwa [← h, Memory.read_cons_self]

/-- A memory that reads as unlisted everywhere lists nothing. -/
theorem Memory.eq_nil_of_read_background {m : Memory} {lo : Nat} (hm : Memory.wfFrom lo m = true)
    (h : ∀ a, a < 4096 → Memory.read m a = background a) : m = [] := by
  cases m with
  | nil => rfl
  | cons p m =>
    obtain ⟨a, v⟩ := p
    obtain ⟨-, ha, hv, -⟩ := Memory.wfFrom_cons.mp hm
    exact absurd ((Memory.read_cons_self a v m).symm.trans (h a ha)) hv

/-- Equal reads make equal lists: the first entries name one address and one value, and the rests read the same again. -/
theorem Memory.eq_of_read_eq {m m' : Memory} {lo : Nat} (hm : Memory.wfFrom lo m = true)
    (hm' : Memory.wfFrom lo m' = true) (h : ∀ a, a < 4096 → Memory.read m a = Memory.read m' a) : m = m' := by
  induction m generalizing m' lo with
  | nil => exact (Memory.eq_nil_of_read_background hm' fun a ha => (h a ha).symm).symm
  | cons p m ih =>
    cases m' with
    | nil => exact Memory.eq_nil_of_read_background hm h
    | cons q m' =>
      obtain ⟨a, v⟩ := p
      obtain ⟨b, w⟩ := q
      obtain ⟨-, ha, -, htail⟩ := Memory.wfFrom_cons.mp hm
      obtain ⟨-, hb, -, htail'⟩ := Memory.wfFrom_cons.mp hm'
      obtain rfl : a = b :=
        le_antisymm (Memory.head_le_of_read_eq hm' hm (h b hb).symm) (Memory.head_le_of_read_eq hm hm' (h a ha))
      have hvw : v = w := by simpa only [Memory.read_cons_self] using h a ha
      have hrest : ∀ c, c < 4096 → Memory.read m c = Memory.read m' c := by
        intro c hc
        by_cases hca : c = a
        · rw [Memory.read_below htail (by omega), Memory.read_below htail' (by omega)]
        · simpa only [Memory.read_cons_ne _ _ hca] using h c hc
      rw [hvw, ih htail htail' hrest]

/-- Settles O9, by induction on the list, from the bound 0 of the canonical form. -/
theorem canonicalMemoryIsUnique : Obligations.CanonicalMemoryIsUnique :=
  fun _ _ hm hm' h => Memory.eq_of_read_eq hm hm' h

/-! The fetched word (R53, R54). -/

/-- Settles O10: a word of two bytes, the high one first, and a read that takes its address modulo 4096. -/
theorem fetchIsBigEndianAndWraps : Obligations.FetchIsBigEndianAndWraps := by
  intro s
  rw [State.memRead_mod, State.fetchWord, wordOfBytes_toNat]

theorem State.highByte_fetchWord (s : State) : highByte s.fetchWord = s.memRead s.pc.toNat :=
  highByte_wordOfBytes _ _

theorem State.lowByte_fetchWord (s : State) : lowByte s.fetchWord = s.memRead (s.pc.toNat + 1) :=
  lowByte_wordOfBytes _ _

theorem State.highByte_fetchWord_memWrite {s : State} (hm : s.mem.wf = true) (a : Nat) (v : Byte) :
    highByte (s.memWrite a v).fetchWord = if a % 4096 = s.pc.toNat then v else highByte s.fetchWord := by
  rw [State.highByte_fetchWord, State.highByte_fetchWord, State.memRead_memWrite hm, State.memWrite_pc,
    Nat.mod_eq_of_lt s.pc.isLt]
  simp only [eq_comm]

theorem State.lowByte_fetchWord_memWrite {s : State} (hm : s.mem.wf = true) (a : Nat) (v : Byte) :
    lowByte (s.memWrite a v).fetchWord = if a % 4096 = (s.pc.toNat + 1) % 4096 then v else lowByte s.fetchWord := by
  rw [State.lowByte_fetchWord, State.lowByte_fetchWord, State.memRead_memWrite hm, State.memWrite_pc]
  simp only [eq_comm]

/-- Settles O11: each half of the fetched word is one cell, and PC and PC + 1 modulo 4096 are two cells. -/
theorem storeIsSeenByTheNextFetch : Obligations.StoreIsSeenByTheNextFetch := by
  intro s a v hm
  have htwo : s.pc.toNat ≠ (s.pc.toNat + 1) % 4096 := by
    have := s.pc.isLt
    omega
  have hhigh := State.highByte_fetchWord_memWrite hm a v
  have hlow := State.lowByte_fetchWord_memWrite hm a v
  refine ⟨fun h => ?_, fun h => ?_, fun h h' => ?_⟩
  · rw [if_pos h] at hhigh
    rw [if_neg (h ▸ htwo)] at hlow
    exact ⟨hhigh, hlow⟩
  · rw [if_neg (h ▸ htwo.symm)] at hhigh
    rw [if_pos h] at hlow
    exact ⟨hlow, hhigh⟩
  · rw [if_neg h] at hhigh
    rw [if_neg h'] at hlow
    exact word_eq_of_bytes hhigh hlow

/-! The placed word (log entries 4 and 6). -/

theorem State.fetchWord_placeWord {s : State} (hm : s.mem.wf = true) (w : Word) : (s.placeWord w).fetchWord = w := by
  have hread := State.memRead_memWriteList_inside hm s.pc.toNat [highByte w, lowByte w] (by simp)
  apply word_eq_of_bytes
  · rw [State.highByte_fetchWord, State.placeWord, State.memWriteList_pc]
    exact hread 0 (by simp)
  · rw [State.lowByte_fetchWord, State.placeWord, State.memWriteList_pc]
    exact hread 1 (by simp)

theorem State.fetchWord_withFetchWord {s : State} (hm : s.mem.wf = true) (w : Word) :
    (s.withFetchWord 16 w.toNat).fetchWord = w := by
  rw [State.withFetchWord, tableWord_toNat]
  exact State.fetchWord_placeWord hm w

theorem State.nextEvent_withFetchWord (s : State) (w : Word) :
    (s.withFetchWord 16 w.toNat).nextEvent = (.cycle none, s.placeWord w) := by
  rw [State.withFetchWord, tableWord_toNat]
  rfl

/-- Settles O52: the CYCLE put first fetches the placed word, which decodes to the instruction (`decodeWord_encode`). -/
theorem withFetchWordRunsTheInstruction : Obligations.WithFetchWordRunsTheInstruction := by
  intro s i hm hi
  have hdecode : decodeWord (s.withFetchWord 16 (encode i).toNat).fetchWord = .ok i := by
    rw [State.fetchWord_withFetchWord hm, decodeWord_encode hi]
  exact stepRunsTheDecodedInstruction.1 _ _ none i (s.nextEvent_withFetchWord (encode i)) hdecode

end Sys2Proof.Machine
end

section
/-! PROOFS. The encoding (30_encoding.md R71 to R76): a word is its fields put together, a word that decodes is the word of
its instruction, the words that are unknown, and the dispatch table row by row. -/

namespace Sys2Proof

/-! A word is its fields, format by format (R71, R72). -/

theorem formNNN_of_fields {w : Word} {op : BitVec 4} {nnn : Addr} (hop : fieldOp w = op) (hnnn : fieldNNN w = nnn) :
    formNNN op nnn = w := by
  subst hop hnnn
  apply BitVec.eq_of_toNat_eq
  rw [formNNN_toNat, fieldOp_toNat, fieldNNN_toNat]
  omega

theorem formXNN_of_fields {w : Word} {op : BitVec 4} {nn : Byte} (hop : fieldOp w = op) (hnn : fieldNN w = nn) :
    formXNN op (fieldX w) nn = w := by
  subst hop hnn
  apply BitVec.eq_of_toNat_eq
  rw [formXNN_toNat, fieldOp_toNat, fieldX_val, fieldNN_toNat]
  omega

theorem formXYN_of_fields {w : Word} {op n : BitVec 4} (hop : fieldOp w = op) (hn : fieldN w = n) :
    formXYN op (fieldX w) (fieldY w) n = w := by
  subst hop hn
  apply BitVec.eq_of_toNat_eq
  rw [formXYN_toNat, fieldOp_toNat, fieldX_val, fieldY_val, fieldN_toNat]
  omega

theorem fieldX_val_eq_fieldNNN_div (w : Word) : (fieldX w).val = (fieldNNN w).toNat / 256 := by
  rw [fieldX_val, fieldNNN_toNat]
  omega

/-- Settles O4, by the arithmetic of each field (`fieldOp_toNat` and the lemmas after it). -/
theorem fieldsOfAWord : Obligations.FieldsOfAWord := by
  intro w
  have := w.isLt
  rw [fieldOp_toNat, fieldX_val, fieldY_val, fieldN_toNat, fieldNN_toNat, fieldNNN_toNat]
  omega

/-! Decoding and encoding (R71, R74): sub-decoder by sub-decoder, a decoded word is the form of its own fields. -/

/-- Settles O2, by the fields of the three formats (`decodeWord_encode`). -/
theorem decodeOfEncode : Obligations.DecodeOfEncode :=
  fun _ => decodeWord_encode

/-- Settles O1: each word is decoded by evaluation. -/
theorem sampleWordsDecode : Obligations.SampleWordsDecode := by
  unfold Obligations.SampleWordsDecode
  decide

theorem decodeOp0_ok {w : Word} {i : Instr} (hop : fieldOp w = 0x0#4) (h : decodeOp0 w = .ok i) :
    i.wellFormed = true ∧ encode i = w := by
  unfold decodeOp0 at h
  split at h <;> cases h
  case h_1 hnnn | h_2 hnnn => exact ⟨rfl, formNNN_of_fields hop hnnn⟩

theorem decodeOp8_ok {w : Word} {i : Instr} (hop : fieldOp w = 0x8#4) (h : decodeOp8 w = .ok i) :
    i.wellFormed = true ∧ encode i = w := by
  unfold decodeOp8 at h
  split at h <;> cases h
  all_goals exact ⟨rfl, formXYN_of_fields hop ‹_›⟩

theorem decodeOpE_ok {w : Word} {i : Instr} (hop : fieldOp w = 0xE#4) (h : decodeOpE w = .ok i) :
    i.wellFormed = true ∧ encode i = w := by
  unfold decodeOpE at h
  split at h <;> cases h
  all_goals exact ⟨rfl, formXNN_of_fields hop ‹_›⟩

theorem decodeOpF_ok {w : Word} {i : Instr} (hop : fieldOp w = 0xF#4) (h : decodeOpF w = .ok i) :
    i.wellFormed = true ∧ encode i = w := by
  unfold decodeOpF at h
  split at h <;> cases h
  all_goals exact ⟨rfl, formXNN_of_fields hop ‹_›⟩

/-- `Bnnn` alone has two overlapping fields; its `x` is read from the bits of its `nnn` (R72, R104). -/
theorem decodeWord_ok {w : Word} {i : Instr} (h : decodeWord w = .ok i) : i.wellFormed = true ∧ encode i = w := by
  unfold decodeWord at h
  split at h
  case h_1 hop => exact decodeOp0_ok hop h
  case h_6 hop | h_10 hop =>
    obtain ⟨hn, h⟩ | ⟨-, h⟩ := ite_eq_iff.mp h <;> cases h
    exact ⟨rfl, formXYN_of_fields hop hn⟩
  case h_9 hop => exact decodeOp8_ok hop h
  case h_12 hop =>
    cases h
    exact ⟨beq_iff_eq.mpr (fieldX_val_eq_fieldNNN_div w).symm, formNNN_of_fields hop rfl⟩
  case h_14 hop =>
    cases h
    exact ⟨rfl, formXYN_of_fields hop rfl⟩
  case h_15 hop => exact decodeOpE_ok hop h
  case h_16 hop => exact decodeOpF_ok hop h
  case h_2 hop | h_3 hop | h_11 hop =>
    cases h
    exact ⟨rfl, formNNN_of_fields hop rfl⟩
  case h_17 => cases h
  all_goals
    cases h
    exact ⟨rfl, formXNN_of_fields ‹_› rfl⟩

/-- Settles O3, by the inversion of the decoder (`decodeWord_ok`). -/
theorem encodeOfDecode : Obligations.EncodeOfDecode :=
  fun _ _ => decodeWord_ok

theorem decodeWord_error {w : Word} {e : DecodeError} (h : decodeWord w = .error e) : e = .unknownOpcode w := by
  unfold decodeWord decodeOp0 decodeOp8 decodeOpE decodeOpF at h
  repeat' split at h
  all_goals cases h <;> rfl

/-! The unknown words (R76). -/

theorem decodeOp0_eq_error_iff (w : Word) :
    decodeOp0 w = .error (.unknownOpcode w) ↔ fieldNNN w ≠ 0x0E0#12 ∧ fieldNNN w ≠ 0x0EE#12 := by
  unfold decodeOp0
  split
  · simp [*]
  · simp [*]
  · exact iff_of_true rfl ⟨‹_›, ‹_›⟩

theorem decodeOpE_eq_error_iff (w : Word) :
    decodeOpE w = .error (.unknownOpcode w) ↔ fieldNN w ∉ [0x9E#8, 0xA1#8] := by
  unfold decodeOpE
  split <;> simp_all

theorem decodeOpF_eq_error_iff (w : Word) : decodeOpF w = .error (.unknownOpcode w) ↔
    fieldNN w ∉ [0x07#8, 0x0A#8, 0x15#8, 0x18#8, 0x1E#8, 0x29#8, 0x33#8, 0x55#8, 0x65#8] := by
  unfold decodeOpF
  split <;> simp_all

theorem decodeOp8_eq_error_iff (w : Word) : decodeOp8 w = .error (.unknownOpcode w) ↔
    fieldN w ∈ [0x8#4, 0x9#4, 0xA#4, 0xB#4, 0xC#4, 0xD#4, 0xF#4] := by
  have hn : ∀ n : BitVec 4, n ∈ [0x8#4, 0x9#4, 0xA#4, 0xB#4, 0xC#4, 0xD#4, 0xF#4] ↔
      n ∉ [0x0#4, 0x1#4, 0x2#4, 0x3#4, 0x4#4, 0x5#4, 0x6#4, 0x7#4, 0xE#4] := by decide
  rw [hn]
  unfold decodeOp8
  split <;> simp_all

/-- Settles O7, by the value of `op`: 0, 8, E and F leave it to their sub-decoder, 5 and 9 to `n`, and the
other ten know every word. -/
theorem unknownWordsAreThoseListed : Obligations.UnknownWordsAreThoseListed := by
  intro w
  unfold decodeWord
  split
  case h_1 hop => simp [hop, decodeOp0_eq_error_iff]
  case h_9 hop => simp [hop, decodeOp8_eq_error_iff]
  case h_15 hop => simp [hop, decodeOpE_eq_error_iff]
  case h_16 hop => simp [hop, decodeOpF_eq_error_iff]
  case h_17 => -- no value of `op` is left
    exfalso
    generalize fieldOp w = op at *
    revert op
    decide
  all_goals
    next hop => simp [hop]

/-! No two rows overlap (R75): the common part of their masks tells any two apart. -/

/-- The rows agree where both masks look only for a row and itself. -/
theorem opcodeTable_eq_of_common : ∀ a ∈ opcodeTable, ∀ b ∈ opcodeTable,
    a.value &&& b.mask = b.value &&& a.mask → a = b := by
  decide

/-- Two rows that one word selects agree where both masks look. -/
theorem OpcodeRow.common_of_selects {a b : OpcodeRow} {w : Word} (ha : a.selects w = true) (hb : b.selects w = true) :
    a.value &&& b.mask = b.value &&& a.mask := by
  rw [← beq_iff_eq.mp ha, ← beq_iff_eq.mp hb, BitVec.and_assoc, BitVec.and_assoc, BitVec.and_comm a.mask]

/-- Settles O6: a word that selects two rows would make them agree where both masks look, and no two rows do. -/
theorem rowsDoNotOverlap : Obligations.RowsDoNotOverlap :=
  fun _ a ha b hb hwa hwb => opcodeTable_eq_of_common a ha b hb (OpcodeRow.common_of_selects hwa hwb)

end Sys2Proof

namespace Sys2Proof.Laws

theorem FitsRow.of_instr : ∀ i : Instr, FitsRow.Statement i
  | .cls => FitsRow.cls
  | .ret => FitsRow.ret
  | .jp nnn => FitsRow.jp nnn
  | .call nnn => FitsRow.call nnn
  | .seImm x nn => FitsRow.seImm x nn
  | .sneImm x nn => FitsRow.sneImm x nn
  | .seReg x y => FitsRow.seReg x y
  | .ldImm x nn => FitsRow.ldImm x nn
  | .addImm x nn => FitsRow.addImm x nn
  | .ldReg x y => FitsRow.ldReg x y
  | .orReg x y => FitsRow.orReg x y
  | .andReg x y => FitsRow.andReg x y
  | .xorReg x y => FitsRow.xorReg x y
  | .addReg x y => FitsRow.addReg x y
  | .sub x y => FitsRow.sub x y
  | .shr x y => FitsRow.shr x y
  | .subn x y => FitsRow.subn x y
  | .shl x y => FitsRow.shl x y
  | .sneReg x y => FitsRow.sneReg x y
  | .ldI nnn => FitsRow.ldI nnn
  | .jpV0 nnn x => FitsRow.jpV0 nnn x
  | .rnd x nn => FitsRow.rnd x nn
  | .drw x y n => FitsRow.drw x y n
  | .skp x => FitsRow.skp x
  | .sknp x => FitsRow.sknp x
  | .ldVxDt x => FitsRow.ldVxDt x
  | .ldVxK x => FitsRow.ldVxK x
  | .ldDtVx x => FitsRow.ldDtVx x
  | .ldStVx x => FitsRow.ldStVx x
  | .addI x => FitsRow.addI x
  | .ldF x => FitsRow.ldF x
  | .ldB x => FitsRow.ldB x
  | .ldMemVx x => FitsRow.ldMemVx x
  | .ldVxMem x => FitsRow.ldVxMem x

end Sys2Proof.Laws

namespace Sys2Proof.Machine

/-! The dispatch table row by row (R74). -/

theorem rowDecodes_FFFF {v : Word} {i : Instr} (h : decodeWord v = .ok i) : RowDecodes 0xFFFF v (fun _ => i) :=
  fun w hw => ((BitVec.and_allOnes (x := w)).symm.trans hw) ▸ h

theorem rowDecodes_cls : RowDecodes 0xFFFF 0x00E0 (fun _ => .cls) := rowDecodes_FFFF rfl

theorem rowDecodes_ret : RowDecodes 0xFFFF 0x00EE (fun _ => .ret) := rowDecodes_FFFF rfl

theorem rowDecodes_jp : RowDecodes 0xF000 0x1000 (fun w => .jp (fieldNNN w)) := fun w h => by
  simp [decodeWord, fieldOp_of_F000 h]

theorem rowDecodes_call : RowDecodes 0xF000 0x2000 (fun w => .call (fieldNNN w)) := fun w h => by
  simp [decodeWord, fieldOp_of_F000 h]

theorem rowDecodes_seImm : RowDecodes 0xF000 0x3000 (fun w => .seImm (fieldX w) (fieldNN w)) := fun w h => by
  simp [decodeWord, fieldOp_of_F000 h]

theorem rowDecodes_sneImm : RowDecodes 0xF000 0x4000 (fun w => .sneImm (fieldX w) (fieldNN w)) := fun w h => by
  simp [decodeWord, fieldOp_of_F000 h]

theorem rowDecodes_seReg : RowDecodes 0xF00F 0x5000 (fun w => .seReg (fieldX w) (fieldY w)) := fun w h => by
  simp [decodeWord, fields_of_F00F h]

theorem rowDecodes_ldImm : RowDecodes 0xF000 0x6000 (fun w => .ldImm (fieldX w) (fieldNN w)) := fun w h => by
  simp [decodeWord, fieldOp_of_F000 h]

theorem rowDecodes_addImm : RowDecodes 0xF000 0x7000 (fun w => .addImm (fieldX w) (fieldNN w)) := fun w h => by
  simp [decodeWord, fieldOp_of_F000 h]

theorem rowDecodes_ldReg : RowDecodes 0xF00F 0x8000 (fun w => .ldReg (fieldX w) (fieldY w)) := fun w h => by
  simp [decodeWord, decodeOp8, fields_of_F00F h]

theorem rowDecodes_orReg : RowDecodes 0xF00F 0x8001 (fun w => .orReg (fieldX w) (fieldY w)) := fun w h => by
  simp [decodeWord, decodeOp8, fields_of_F00F h]

theorem rowDecodes_andReg : RowDecodes 0xF00F 0x8002 (fun w => .andReg (fieldX w) (fieldY w)) := fun w h => by
  simp [decodeWord, decodeOp8, fields_of_F00F h]

theorem rowDecodes_xorReg : RowDecodes 0xF00F 0x8003 (fun w => .xorReg (fieldX w) (fieldY w)) := fun w h => by
  simp [decodeWord, decodeOp8, fields_of_F00F h]

theorem rowDecodes_addReg : RowDecodes 0xF00F 0x8004 (fun w => .addReg (fieldX w) (fieldY w)) := fun w h => by
  simp [decodeWord, decodeOp8, fields_of_F00F h]

theorem rowDecodes_sub : RowDecodes 0xF00F 0x8005 (fun w => .sub (fieldX w) (fieldY w)) := fun w h => by
  simp [decodeWord, decodeOp8, fields_of_F00F h]

theorem rowDecodes_shr : RowDecodes 0xF00F 0x8006 (fun w => .shr (fieldX w) (fieldY w)) := fun w h => by
  simp [decodeWord, decodeOp8, fields_of_F00F h]

theorem rowDecodes_subn : RowDecodes 0xF00F 0x8007 (fun w => .subn (fieldX w) (fieldY w)) := fun w h => by
  simp [decodeWord, decodeOp8, fields_of_F00F h]

theorem rowDecodes_shl : RowDecodes 0xF00F 0x800E (fun w => .shl (fieldX w) (fieldY w)) := fun w h => by
  simp [decodeWord, decodeOp8, fields_of_F00F h]

theorem rowDecodes_sneReg : RowDecodes 0xF00F 0x9000 (fun w => .sneReg (fieldX w) (fieldY w)) := fun w h => by
  simp [decodeWord, fields_of_F00F h]

theorem rowDecodes_ldI : RowDecodes 0xF000 0xA000 (fun w => .ldI (fieldNNN w)) := fun w h => by
  simp [decodeWord, fieldOp_of_F000 h]

theorem rowDecodes_jpV0 : RowDecodes 0xF000 0xB000 (fun w => .jpV0 (fieldNNN w) (fieldX w)) := fun w h => by
  simp [decodeWord, fieldOp_of_F000 h]

theorem rowDecodes_rnd : RowDecodes 0xF000 0xC000 (fun w => .rnd (fieldX w) (fieldNN w)) := fun w h => by
  simp [decodeWord, fieldOp_of_F000 h]

theorem rowDecodes_drw : RowDecodes 0xF000 0xD000 (fun w => .drw (fieldX w) (fieldY w) (fieldN w)) := fun w h => by
  simp [decodeWord, fieldOp_of_F000 h]

theorem rowDecodes_skp : RowDecodes 0xF0FF 0xE09E (fun w => .skp (fieldX w)) := fun w h => by
  simp [decodeWord, decodeOpE, fields_of_F0FF h]

theorem rowDecodes_sknp : RowDecodes 0xF0FF 0xE0A1 (fun w => .sknp (fieldX w)) := fun w h => by
  simp [decodeWord, decodeOpE, fields_of_F0FF h]

theorem rowDecodes_ldVxDt : RowDecodes 0xF0FF 0xF007 (fun w => .ldVxDt (fieldX w)) := fun w h => by
  simp [decodeWord, decodeOpF, fields_of_F0FF h]

theorem rowDecodes_ldVxK : RowDecodes 0xF0FF 0xF00A (fun w => .ldVxK (fieldX w)) := fun w h => by
  simp [decodeWord, decodeOpF, fields_of_F0FF h]

theorem rowDecodes_ldDtVx : RowDecodes 0xF0FF 0xF015 (fun w => .ldDtVx (fieldX w)) := fun w h => by
  simp [decodeWord, decodeOpF, fields_of_F0FF h]

theorem rowDecodes_ldStVx : RowDecodes 0xF0FF 0xF018 (fun w => .ldStVx (fieldX w)) := fun w h => by
  simp [decodeWord, decodeOpF, fields_of_F0FF h]

theorem rowDecodes_addI : RowDecodes 0xF0FF 0xF01E (fun w => .addI (fieldX w)) := fun w h => by
  simp [decodeWord, decodeOpF, fields_of_F0FF h]

theorem rowDecodes_ldF : RowDecodes 0xF0FF 0xF029 (fun w => .ldF (fieldX w)) := fun w h => by
  simp [decodeWord, decodeOpF, fields_of_F0FF h]

theorem rowDecodes_ldB : RowDecodes 0xF0FF 0xF033 (fun w => .ldB (fieldX w)) := fun w h => by
  simp [decodeWord, decodeOpF, fields_of_F0FF h]

theorem rowDecodes_ldMemVx : RowDecodes 0xF0FF 0xF055 (fun w => .ldMemVx (fieldX w)) := fun w h => by
  simp [decodeWord, decodeOpF, fields_of_F0FF h]

theorem rowDecodes_ldVxMem : RowDecodes 0xF0FF 0xF065 (fun w => .ldVxMem (fieldX w)) := fun w h => by
  simp [decodeWord, decodeOpF, fields_of_F0FF h]

/-- Every row decodes, by its own function of the word, to an instruction with the row's mnemonic (R74). -/
theorem opcodeTable_decodes :
    ∀ r ∈ opcodeTable, ∃ f, RowDecodes r.mask r.value f ∧ ∀ w, (f w).mnemonic = r.mnemonic := by
  simp only [opcodeTable, opcodeRowsLow, opcodeRowsHigh, List.cons_append, List.nil_append, List.forall_mem_cons]
  exact ⟨⟨_, rowDecodes_cls, fun _ => rfl⟩, ⟨_, rowDecodes_ret, fun _ => rfl⟩, ⟨_, rowDecodes_jp, fun _ => rfl⟩,
    ⟨_, rowDecodes_call, fun _ => rfl⟩, ⟨_, rowDecodes_seImm, fun _ => rfl⟩, ⟨_, rowDecodes_sneImm, fun _ => rfl⟩,
    ⟨_, rowDecodes_seReg, fun _ => rfl⟩, ⟨_, rowDecodes_ldImm, fun _ => rfl⟩, ⟨_, rowDecodes_addImm, fun _ => rfl⟩,
    ⟨_, rowDecodes_ldReg, fun _ => rfl⟩, ⟨_, rowDecodes_orReg, fun _ => rfl⟩, ⟨_, rowDecodes_andReg, fun _ => rfl⟩,
    ⟨_, rowDecodes_xorReg, fun _ => rfl⟩, ⟨_, rowDecodes_addReg, fun _ => rfl⟩, ⟨_, rowDecodes_sub, fun _ => rfl⟩,
    ⟨_, rowDecodes_shr, fun _ => rfl⟩, ⟨_, rowDecodes_subn, fun _ => rfl⟩, ⟨_, rowDecodes_shl, fun _ => rfl⟩,
    ⟨_, rowDecodes_sneReg, fun _ => rfl⟩, ⟨_, rowDecodes_ldI, fun _ => rfl⟩, ⟨_, rowDecodes_jpV0, fun _ => rfl⟩,
    ⟨_, rowDecodes_rnd, fun _ => rfl⟩, ⟨_, rowDecodes_drw, fun _ => rfl⟩, ⟨_, rowDecodes_skp, fun _ => rfl⟩,
    ⟨_, rowDecodes_sknp, fun _ => rfl⟩, ⟨_, rowDecodes_ldVxDt, fun _ => rfl⟩, ⟨_, rowDecodes_ldVxK, fun _ => rfl⟩,
    ⟨_, rowDecodes_ldDtVx, fun _ => rfl⟩, ⟨_, rowDecodes_ldStVx, fun _ => rfl⟩, ⟨_, rowDecodes_addI, fun _ => rfl⟩,
    ⟨_, rowDecodes_ldF, fun _ => rfl⟩, ⟨_, rowDecodes_ldB, fun _ => rfl⟩, ⟨_, rowDecodes_ldMemVx, fun _ => rfl⟩,
    ⟨_, rowDecodes_ldVxMem, fun _ => rfl⟩, List.forall_mem_nil _⟩

/-- Settles O5. A row that selects decodes (`opcodeTable_decodes`). A word that decodes is the word of its instruction, which
that instruction's own row selects; so a word that no row selects does not decode. -/
theorem decodeFollowsDispatchTable : Obligations.DecodeFollowsDispatchTable := by
  refine ⟨rfl, fun w r hr hw => ?_, fun w hnone => ?_⟩
  · obtain ⟨f, hdecodes, hmnemonic⟩ := opcodeTable_decodes r hr
    exact ⟨f w, hdecodes w (beq_iff_eq.mp hw), hmnemonic w⟩
  · cases hd : decodeWord w with
    | error e => rw [decodeWord_error hd]
    | ok i =>
      obtain ⟨r, hr, -, hsel⟩ := Laws.FitsRow.of_instr i
      rw [(decodeWord_ok hd).2, hnone r hr] at hsel
      exact absurd hsel Bool.false_ne_true

end Sys2Proof.Machine
end

section
/-! PROOFS. Control flow (40_control_flow.md R101 to R108) and a program parked on a jump to itself (70_reset_and_hazards.md
R258). First what they share: the frame of an instruction, read off the frame table, and a program that stands still. -/

namespace Sys2Proof.Machine

/-! The frame of an instruction (R238). -/

/-- The list names every piece of state that the frame table lets the instruction change. -/
def writesWithin (i : Instr) (changed : List Part) : Bool :=
  [Part.mem, .v, .i, .pc, .stack, .dt, .st, .fb, .keys].all fun p => !instrMayChange p i || changed.contains p

theorem instrMayChange_eq_false_of_writesWithin {i : Instr} {changed : List Part} (hw : writesWithin i changed = true)
    {p : Part} (hp : p ∉ changed) : instrMayChange p i = false := by
  have hall := List.all_eq_true.mp hw p (by cases p <;> decide)
  simpa [hp] using hall

/-- An instruction leaves every piece that the table denies it, and the configuration, the host's events and RAND. -/
theorem exec_frame {i : Instr} {s t : State} {changed : List Part} (h : exec i s = .next t)
    (hw : writesWithin i changed = true) : Frame changed s t :=
  ⟨fun _ hp => exec_keeps_part h (instrMayChange_eq_false_of_writesWithin hw hp), exec_keeps_inputs h⟩

theorem State.raise_frame (s : State) (f : Fault) : Frame [] s (s.raise f) := by
  refine ⟨fun p _ => Same.of_field ?_, ⟨rfl, rfl, rfl⟩, rfl, rfl⟩
  cases p <;> rfl

/-! Each control flow instruction as one update of the state. -/

theorem exec_jp (nnn : Addr) (s : State) : exec (.jp nnn) s = .next (s.endAt nnn) := rfl

theorem exec_call (nnn : Addr) (s : State) : exec (.call nnn) s = .next ((s.push s.nextPc).endAt nnn) := rfl

theorem exec_jpV0 (nnn : Addr) (x : Reg) (s : State) :
    exec (.jpV0 nnn x) s = .next (s.endAt (nnn + (s.jumpBase x).setWidth 12)) := rfl

theorem exec_ret_of_stack_append {s : State} {rest : List Addr} {a : Addr} (h : s.stack = rest ++ [a]) :
    exec .ret s = .next (s.dropTop.endAt a) := by
  simp [exec, execRet, h, jumpTo_eq]

/-- Settles O12: a jump is the end of the CYCLE at `nnn`. -/
theorem jumpGoesToItsTarget : Obligations.JumpGoesToItsTarget :=
  ⟨rowDecodes_jp, fun s nnn => ⟨s.endAt nnn, exec_jp nnn s, rfl, rfl, exec_frame (exec_jp nnn s) rfl⟩⟩

/-- Settles O13: the pushed address is `next`, which wraps (`nextPc_toNat`). -/
theorem callPushesTheReturnAddress : Obligations.CallPushesTheReturnAddress :=
  ⟨rowDecodes_call, fun s nnn => ⟨_, s.nextPc, exec_call nnn s, rfl, rfl, nextPc_toNat s, rfl,
    exec_frame (exec_call nnn s) rfl⟩⟩

/-- Settles O14, by the two forms of the stack. -/
theorem returnPopsOrUnderflows : Obligations.ReturnPopsOrUnderflows := by
  refine ⟨rowDecodes_ret, fun s rest a h => ?_, fun s h => ?_⟩
  · have hret := exec_ret_of_stack_append h
    exact ⟨_, hret, rfl, by simp [h], rfl, exec_frame hret rfl⟩
  · exact ⟨_, exec_ret_of_stack_nil h, rfl, s.raise_frame _⟩

/-- Called from `s`, RET is a jump from `s` to the instruction after the call: the entry that CALL pushed is the one popped. -/
theorem exec_ret_of_exec_call {s t : State} {nnn : Addr} (h : exec (.call nnn) s = .next t) :
    exec .ret t = exec (.jp s.nextPc) s := by
  rw [exec_call] at h
  injection h with h; subst h
  rw [exec_ret_of_stack_append (rest := s.stack) rfl, exec_jp]
  simp [State.dropTop, State.endAt, State.push]

/-- Settles O17: RET after CALL is a jump to `next` (`exec_ret_of_exec_call`). -/
theorem returnUndoesCall : Obligations.ReturnUndoesCall := by
  intro s t u nnn hcall
  rw [exec_ret_of_exec_call hcall, exec_jp]
  refine ⟨⟨_, rfl⟩, fun hret => ?_⟩
  have hframe : Frame [.pc] s u := exec_frame ((exec_jp s.nextPc s).trans hret) rfl
  injection hret with hret; subst hret
  exact ⟨nextPc_toNat s, hframe, rfl⟩

/-! The jump with offset (R104). -/

theorem State.jumpBase_of_v0 {s : State} (h : s.cfg.jmpOffsetMode = .v0) (x : Reg) : s.jumpBase x = s.readV 0 := by
  simp [State.jumpBase, h]

theorem State.jumpBase_of_vx {s : State} (h : s.cfg.jmpOffsetMode = .vx) (x : Reg) : s.jumpBase x = s.readV x := by
  simp [State.jumpBase, h]

theorem addr_add_byte_toNat (a : Addr) (b : Byte) : (a + b.setWidth 12).toNat = (a.toNat + b.toNat) % 4096 := by
  rw [BitVec.toNat_add, BitVec.toNat_setWidth_of_le (by decide)]

/-- Settles O15: the mode selects the base (`State.jumpBase_of_v0`, `State.jumpBase_of_vx`), and 12 bits hold the sum modulo 4096. -/
theorem jumpWithOffset : Obligations.JumpWithOffset := by
  refine ⟨rowDecodes_jpV0, fieldX_val_eq_fieldNNN_div, fun s nnn x =>
    ⟨_, exec_jpV0 nnn x s, fun hv0 => ?_, fun hvx => ?_, rfl, exec_frame (exec_jpV0 nnn x s) rfl⟩⟩
  · rw [State.endAt_pc, State.jumpBase_of_v0 hv0, addr_add_byte_toNat]
  · rw [State.endAt_pc, State.jumpBase_of_vx hvx, addr_add_byte_toNat]

/-! The skips (R100, R105 to R108). -/

/-- A skip on `c` moves PC by 4 where `c` holds and by 2 where it does not, and changes nothing else. -/
theorem exec_skip {i : Instr} {s : State} {c : Bool} {P Q : Prop} (h : exec i s = skipIf c s)
    (hw : writesWithin i [.pc] = true) (hyes : P → c = true) (hno : Q → c = false) :
    ∃ t, exec i s = .next t ∧ EndsOk t ∧ Frame [.pc] s t ∧ (P → PcMovedBy 4 s t) ∧ (Q → PcMovedBy 2 s t) := by
  rw [skipIf_eq] at h
  refine ⟨_, h, rfl, exec_frame h hw, fun hP => ?_, fun hQ => ?_⟩
  · rw [PcMovedBy, State.endAt_pc, if_pos (hyes hP), skipPc_toNat]
  · rw [PcMovedBy, State.endAt_pc, if_neg (by simp [hno hQ]), nextPc_toNat]

/-- Settles O16: each of the four is a skip on its own comparison (`exec_skip`). -/
theorem skipsCompareAndMoveOnlyPc : Obligations.SkipsCompareAndMoveOnlyPc :=
  ⟨rowDecodes_seImm, rowDecodes_sneImm, rowDecodes_seReg, rowDecodes_sneReg,
    fun _ _ _ => ⟨exec_skip rfl rfl beq_iff_eq.mpr beq_eq_false_iff_ne.mpr,
      exec_skip rfl rfl bne_iff_ne.mpr bne_eq_false_iff_eq.mpr⟩,
    fun _ _ _ => ⟨exec_skip rfl rfl beq_iff_eq.mpr beq_eq_false_iff_ne.mpr,
      exec_skip rfl rfl bne_iff_ne.mpr bne_eq_false_iff_eq.mpr⟩⟩

/-! A program that stands still while events go by: what holds of it, event after event (R227, R237, R258). -/

theorem Same.refl (p : Part) (s : State) : Same p s s :=
  Same.of_field (by cases p <;> rfl)

theorem Same.trans {p : Part} {s t u : State} (hst : Same p s t) (htu : Same p t u) : Same p s u := by
  cases p
  case mem => exact fun a => (htu a).trans (hst a)
  case v => exact fun r => (htu r).trans (hst r)
  all_goals exact Eq.trans htu hst

/-- The word at PC depends on memory and PC alone (R53). -/
theorem State.fetchWord_eq_of_same {s t : State} (hmem : Same .mem s t) (hpc : Same .pc s t) :
    t.fetchWord = s.fetchWord := by
  have hpc' : t.pc = s.pc := hpc
  rw [State.fetchWord, State.fetchWord, hpc', hmem, hmem]

/-- Nothing outside `changed` is different, and the status is `out` if it was so already or a CYCLE has returned since. -/
def StandsStill (changed : List Part) (out : Status) (cycled : Prop) (s t : State) : Prop :=
  (∀ p, p ∉ changed → Same p s t) ∧ (s.status = out ∨ cycled → t.status = out)

/-- If each event keeps `P` and the program stands still over it, then so it is over every sequence of them. -/
theorem runEvents_standsStill {P : State → Prop} {ok : Event → Prop} {changed : List Part} {out : Status}
    (hevent : ∀ e s t, ok e → P s → applyEvent e s = .next t →
      P t ∧ StandsStill changed out (e.isCycle = true) s t)
    {es : List Event} {s t : State} (hok : ∀ e ∈ es, ok e) (hs : P s) (h : runEvents es s = .next t) :
    P t ∧ StandsStill changed out (∃ e ∈ es, e.isCycle = true) s t := by
  induction es generalizing s with
  | nil =>
    injection h with h; subst h
    exact ⟨hs, fun p _ => Same.refl p s, fun hout => by simpa using hout⟩
  | cons e es ih =>
    obtain ⟨hoke, hok⟩ := List.forall_mem_cons.mp hok
    obtain ⟨u, hu, hrest⟩ := runEvents_cons_next h
    obtain ⟨hPu, hsu, houtu⟩ := hevent e s u hoke hs hu
    obtain ⟨hPt, hut, houtt⟩ := ih hok hPu hrest
    refine ⟨hPt, fun p hp => (hsu p hp).trans (hut p hp), fun hout => houtt ?_⟩
    rw [List.exists_mem_cons_iff] at hout
    obtain hold | hcycle | hlater := hout
    · exact .inl (houtu (.inl hold))
    · exact .inl (houtu (.inr hcycle))
    · exact .inr hlater

theorem runEvents_next_of_no_reset {es : List Event} (h : ∀ e ∈ es, e.isReset = false) (s : State) :
    ∃ t, runEvents es s = .next t :=
  runEvents_next (fun a ha => absurd (h (.reset a) ha) Bool.noConfusion) s

/-! The jump to itself (R101, R258). -/

theorem HaltedLoop.of_same {s t : State} (hs : HaltedLoop s) (hmem : Same .mem s t) (hpc : Same .pc s t) :
    HaltedLoop t := by
  have hpc' : t.pc = s.pc := hpc
  rw [HaltedLoop, State.fetchWord_eq_of_same hmem hpc, hpc']
  exact hs

/-- A CYCLE at a jump to itself ends where it began. -/
theorem applyEvent_cycle_of_haltedLoop {s : State} (hs : HaltedLoop s) (r : Option Byte) :
    applyEvent (.cycle r) s = .next ((s.latchRand r).endAt s.pc) := by
  rw [applyEvent, cycle_of_decodeWord (by rwa [State.fetchWord_latchRand]), exec_jp]

theorem applyEvent_standsStill_of_haltedLoop {e : Event} {s t : State} (he : e.isReset = false) (hs : HaltedLoop s)
    (h : applyEvent e s = .next t) : StandsStill [.dt, .st, .keys] .ok (e.isCycle = true) s t := by
  cases e with
  | reset _ => cases he
  | keys _ | tick =>
    refine ⟨fun p hp => applyEvent_keeps_part rfl h ?_, ?_⟩
    · cases p <;> simp [eventMayChange] at hp ⊢
    · injection h with h; subst h; simp [Event.isCycle]
  | cycle r =>
    rw [applyEvent_cycle_of_haltedLoop hs] at h
    injection h with h; subst h
    refine ⟨fun p _ => Same.of_field ?_, fun _ => rfl⟩
    cases p <;> simp [SameField, Same]

/-- The loop is still there: memory and PC are the same. -/
theorem applyEvent_keeps_haltedLoop {e : Event} {s t : State} (he : e.isReset = false) (hs : HaltedLoop s)
    (h : applyEvent e s = .next t) : HaltedLoop t := by
  obtain ⟨hsame, -⟩ := applyEvent_standsStill_of_haltedLoop he hs h
  exact hs.of_same (hsame .mem (by decide)) (hsame .pc (by decide))

/-- Settles O50, by induction on the sequence (`runEvents_standsStill`): every event keeps the loop and stands still. -/
theorem haltedLoopStaysHalted : Obligations.HaltedLoopStaysHalted := by
  intro s es hs hes
  obtain ⟨t, ht⟩ := runEvents_next_of_no_reset hes s
  obtain ⟨hhalted, hsame, hout⟩ := runEvents_standsStill
    (fun _ _ _ he hs h => ⟨applyEvent_keeps_haltedLoop he hs h, applyEvent_standsStill_of_haltedLoop he hs h⟩) hes hs ht
  exact ⟨t, ht, hhalted, hsame, fun hcycle => hout (.inr hcycle)⟩

end Sys2Proof.Machine
end

section
/-! PROOFS. Registers and arithmetic (41_alu.md R120 to R132). First the two shapes that every instruction of the family has: one
register written, and a result written before its flag; then the results and flags as numbers. -/

namespace Sys2Proof.Machine

/-! The two shapes. -/

/-- An instruction that writes `b` to Vx and nothing else but PC: whatever `b` in Vx says of the next state holds of it. -/
theorem exec_writeV {i : Instr} {s : State} {x : Reg} {b : Byte} {P : State → Prop}
    (h : exec i s = advance (s.writeV x b)) (hw : writesWithin i [.v, .pc] = true) (hP : ∀ t : State, t.readV x = b → P t) :
    ∃ t, exec i s = .next t ∧ P t ∧ SameRegs [x] s t ∧ PcMovedBy 2 s t ∧ EndsOk t ∧ Frame [.v, .pc] s t := by
  rw [advance_eq] at h
  refine ⟨_, h, hP _ (by simp), fun r hr => ?_, nextPc_toNat s, rfl, exec_frame h hw⟩
  have hrx : r ≠ x := by simpa using hr
  simp [hrx]

/-- An instruction that writes `b` to Vx and then the flag `c` to VF: the flag is there for every x, and the result where x is not
0xF (R120). -/
theorem exec_writeResultThenFlag {i : Instr} {s : State} {x : Reg} {b : Byte} {c : Bool} {result flag : Nat}
    (h : exec i s = advance (s.writeResultThenFlag x b c)) (hw : writesWithin i [.v, .pc] = true)
    (hresult : b.toNat = result) (hflag : (flagByte c).toNat = flag) :
    ∃ t, exec i s = .next t ∧ (x ≠ VF → (t.readV x).toNat = result) ∧ (t.readV VF).toNat = flag ∧
      SameRegs [x, VF] s t ∧ PcMovedBy 2 s t ∧ EndsOk t ∧ Frame [.v, .pc] s t := by
  rw [advance_eq] at h
  refine ⟨_, h, fun hx => ?_, ?_, fun r hr => ?_, nextPc_toNat s, rfl, exec_frame h hw⟩
  · simpa [hx] using hresult
  · simpa using hflag
  · obtain ⟨hrx, hrf⟩ : r ≠ x ∧ r ≠ VF := by simpa using hr
    simp [hrx, hrf]

/-! Results and flags as numbers. -/

theorem byte_sub_toNat (a b : Byte) : (a - b).toNat = (a.toNat + 256 - b.toNat) % 256 := by
  have := b.isLt
  rw [BitVec.toNat_sub]
  omega

theorem byte_shiftRight_one_toNat (a : Byte) : (a >>> 1).toNat = a.toNat / 2 := by
  rw [BitVec.toNat_ushiftRight, Nat.shiftRight_eq_div_pow, pow_one]

theorem byte_shiftLeft_one_toNat (a : Byte) : (a <<< 1).toNat = a.toNat * 2 % 256 := by
  rw [BitVec.toNat_shiftLeft, Nat.shiftLeft_eq, pow_one]

theorem flagByte_decide_toNat (p : Prop) [Decidable p] : (flagByte (decide p)).toNat = if p then 1 else 0 := by
  simp [flagByte_toNat]

/-- A bit as a flag. -/
theorem flagByte_getLsbD_toNat (a : Byte) (k : Nat) : (flagByte (a.getLsbD k)).toNat = a.toNat / 2 ^ k % 2 := by
  rw [flagByte_toNat, BitVec.getLsbD, Nat.testBit_eq_decide_div_mod_eq]
  rcases Nat.mod_two_eq_zero_or_one (a.toNat / 2 ^ k) with h | h <;> simp [h]

theorem flagByte_shiftedOutRight_toNat (a : Byte) : (flagByte (shiftedOutRight a)).toNat = a.toNat % 2 := by
  rw [shiftedOutRight, flagByte_getLsbD_toNat, pow_zero, Nat.div_one]

theorem flagByte_shiftedOutLeft_toNat (a : Byte) : (flagByte (shiftedOutLeft a)).toNat = a.toNat / 128 := by
  have := a.isLt
  rw [shiftedOutLeft, flagByte_getLsbD_toNat]
  omega

/-- The register whose value a shift takes, by `shift_mode` (R129, R131). -/
theorem State.shiftSource_eq_readV {s : State} {x y z : Reg} (hlegacy : s.cfg.shiftMode = .legacy → z = y)
    (hinPlace : s.cfg.shiftMode = .inPlace → z = x) : s.shiftSource x y = s.readV z := by
  cases hmode : s.cfg.shiftMode with
  | legacy => rw [hlegacy hmode, State.shiftSource, hmode]
  | inPlace => rw [hinPlace hmode, State.shiftSource, hmode]

/-! The statements. -/

/-- Settles O18: each writes one register (`exec_writeV`), and 8 bits hold the sum modulo 256. -/
theorem loadAndAddImmediate : Obligations.LoadAndAddImmediate :=
  ⟨rowDecodes_ldImm, rowDecodes_addImm, fun _ _ _ =>
    ⟨exec_writeV rfl rfl fun _ ht => ht,
      exec_writeV rfl rfl fun _ ht => by rw [ht, BitVec.toNat_add]⟩⟩

/-- Settles O19: each writes one register (`exec_writeV`), and the operators act bit by bit. -/
theorem copyAndLogic : Obligations.CopyAndLogic :=
  ⟨rowDecodes_ldReg, rowDecodes_orReg, rowDecodes_andReg, rowDecodes_xorReg, fun _ _ _ =>
    ⟨exec_writeV rfl rfl fun _ ht => ht,
      exec_writeV rfl rfl fun _ ht _ => by rw [ht, BitVec.getLsbD_or],
      exec_writeV rfl rfl fun _ ht _ => by rw [ht, BitVec.getLsbD_and],
      exec_writeV rfl rfl fun _ ht _ => by rw [ht, BitVec.getLsbD_xor]⟩⟩

/-- Settles O20: a result and then its flag (`exec_writeResultThenFlag`), the flag the carry of the unmasked sum. -/
theorem addRegistersWithCarry : Obligations.AddRegistersWithCarry :=
  ⟨rowDecodes_addReg, fun _ _ _ =>
    exec_writeResultThenFlag rfl rfl (BitVec.toNat_add _ _) (flagByte_decide_toNat _)⟩

/-- Settles O21: both are a difference and then its strict flag (`exec_writeResultThenFlag`), with the operands exchanged. -/
theorem subtractWithStrictFlag : Obligations.SubtractWithStrictFlag :=
  ⟨rowDecodes_sub, rowDecodes_subn, fun _ _ _ =>
    ⟨exec_writeResultThenFlag rfl rfl (byte_sub_toNat _ _) (flagByte_decide_toNat _),
      exec_writeResultThenFlag rfl rfl (byte_sub_toNat _ _) (flagByte_decide_toNat _)⟩⟩

/-- Settles O22: the mode selects the operand (`State.shiftSource_eq_readV`); then a result and its flag
(`exec_writeResultThenFlag`). -/
theorem shiftsByQuirk : Obligations.ShiftsByQuirk := by
  refine ⟨rowDecodes_shr, rowDecodes_shl, fun s x y z hlegacy hinPlace => ?_⟩
  rw [← State.shiftSource_eq_readV hlegacy hinPlace]
  exact ⟨exec_writeResultThenFlag rfl rfl (byte_shiftRight_one_toNat _) (flagByte_shiftedOutRight_toNat _),
    exec_writeResultThenFlag rfl rfl (byte_shiftLeft_one_toNat _) (flagByte_shiftedOutLeft_toNat _)⟩

end Sys2Proof.Machine
end

section
/-! PROOFS. Index pointer and random (42_index_and_random.md R140 to R143). First the end that the instructions on I share, then
the two outcomes of the index add, each as one update of the state. -/

namespace Sys2Proof.Machine

/-! The end of the CYCLE and the values. -/

/-- The end of an instruction that changes the state to `u` and goes on to the next one. -/
theorem exec_advance_end {i : Instr} {s u : State} {changed : List Part} (h : exec i s = advance u) (hpc : u.pc = s.pc)
    (hw : writesWithin i changed = true) :
    PcMovedBy 2 s (u.endAt u.nextPc) ∧ EndsOk (u.endAt u.nextPc) ∧ Frame changed s (u.endAt u.nextPc) := by
  rw [advance_eq] at h
  refine ⟨?_, rfl, exec_frame h hw⟩
  rw [PcMovedBy, State.endAt_pc, nextPc_toNat, hpc]

/-- An instruction that writes `w` to I and nothing else but PC. -/
theorem exec_setIndex {i : Instr} {s : State} {w : Word} {n : Nat} (h : exec i s = advance (s.setIndex w))
    (hw : writesWithin i [.i, .pc] = true) (hn : w.toNat = n) :
    ∃ t, exec i s = .next t ∧ t.i.toNat = n ∧ PcMovedBy 2 s t ∧ EndsOk t ∧ Frame [.i, .pc] s t :=
  ⟨_, h, hn, exec_advance_end h rfl hw⟩

/-- No glyph address wraps, for the greatest is 255 times 5 (R143). -/
theorem glyphAddr_toNat (b : Byte) : (glyphAddr b).toNat = b.toNat * 5 := by
  have := b.isLt
  rw [glyphAddr, BitVec.toNat_ofNat, Nat.mod_eq_of_lt (by omega)]

theorem State.randomByte_of_random {s : State} (h : s.cfg.randomMode = .random) : s.randomByte = s.rand := by
  simp [State.randomByte, h]

theorem State.randomByte_of_zero {s : State} (h : s.cfg.randomMode = .zero) : s.randomByte = 0 := by
  simp [State.randomByte, h]

/-! The index add, by its exact sum (R142). -/

section
variable {s : State} {x : Reg}

theorem exec_addI_of_sum_le (h : s.i.toNat + (s.readV x).toNat ≤ 0xFFF) :
    exec (.addI x) s = advance (s.setIndex (s.i + (s.readV x).setWidth 16)) :=
  if_neg (by simpa [indexOverflow] using h)

theorem exec_addI_of_sum_gt (h : s.i.toNat + (s.readV x).toNat > 0xFFF) :
    exec (.addI x) s =
      advance (s.setIndex (BitVec.ofNat 16 ((s.i.toNat + (s.readV x).toNat) % 0x1000))).flagIndexOverflow :=
  if_pos (by simpa [indexOverflow] using h)

end

theorem word_add_byte_toNat {i : Word} {b : Byte} (h : i.toNat + b.toNat ≤ 0xFFF) :
    (i + b.setWidth 16).toNat = i.toNat + b.toNat := by
  rw [BitVec.toNat_add, BitVec.toNat_setWidth_of_le (by decide), Nat.mod_eq_of_lt (by omega)]

theorem ofNat_mod_4096_toNat (n : Nat) : (BitVec.ofNat 16 (n % 0x1000)).toNat = n % 0x1000 := by
  rw [BitVec.toNat_ofNat, Nat.mod_eq_of_lt (by omega)]

/-! The statements. -/

/-- Settles O25, by the two outcomes of the exact sum (`exec_addI_of_sum_le`, `exec_addI_of_sum_gt`); past 0xFFF the mode says
whether VF is written (`State.readV_flagIndexOverflow`). -/
theorem addToIndexByQuirk : Obligations.AddToIndexByQuirk := by
  refine ⟨rowDecodes_addI, fun s x => ?_⟩
  obtain hle | hgt := le_or_gt (s.i.toNat + (s.readV x).toNat) 0xFFF
  · have hexec := exec_addI_of_sum_le hle
    exact ⟨_, hexec, fun _ => ⟨word_add_byte_toNat hle, fun _ => rfl⟩, fun hgt => absurd hle hgt.not_ge,
      exec_advance_end hexec rfl rfl⟩
  · have hexec := exec_addI_of_sum_gt hgt
    refine ⟨_, hexec, fun hle => absurd hle hgt.not_ge, fun _ => ⟨?_, fun hset => ⟨?_, fun r hr => ?_⟩, fun hno r => ?_⟩,
      exec_advance_end hexec (State.flagIndexOverflow_pc _) rfl⟩
    · rw [State.endAt_i, State.flagIndexOverflow_i, State.setIndex_i, ofNat_mod_4096_toNat]
    · simp [State.readV_flagIndexOverflow, hset]
    · have hrf : r ≠ VF := by simpa using hr
      simp [State.readV_flagIndexOverflow, hrf]
    · simp [State.readV_flagIndexOverflow, hno]

/-- Settles O23: each writes I alone (`exec_setIndex`), and 16 bits hold both values. -/
theorem loadIndexAndGlyphAddress : Obligations.LoadIndexAndGlyphAddress :=
  ⟨rowDecodes_ldI, rowDecodes_ldF,
    fun _ _ => exec_setIndex rfl rfl (BitVec.toNat_setWidth_of_le (by decide)),
    fun _ _ => exec_setIndex rfl rfl (glyphAddr_toNat _)⟩

/-- Settles O24: one register is written (`exec_writeV`), and the mode selects the byte under the mask. -/
theorem randomUnderMask : Obligations.RandomUnderMask := by
  refine ⟨rowDecodes_rnd, fun s x nn => ?_⟩
  obtain ⟨t, hexec, hread, hend⟩ :=
    exec_writeV (i := .rnd x nn) (s := s) (P := fun t => t.readV x = s.randomByte &&& nn) rfl rfl fun _ ht => ht
  refine ⟨t, hexec, fun hrandom k => ?_, fun hzero => ?_, hend⟩
  · rw [hread, State.randomByte_of_random hrandom, BitVec.getLsbD_and]
  · rw [hread, State.randomByte_of_zero hzero]
    exact BitVec.zero_and

end Sys2Proof.Machine
end

section
/-! PROOFS. Display (43_display.md R161 to R164). First what a draw does: which pixels it toggles, and what it puts in VF. Both are
read off the loop row by row (`State.drawRows_row`, `State.drawRows_hit`); that a second draw undoes the first follows from them. -/

namespace Sys2Proof.Machine

/-! The framebuffer is its pixels (R28). -/

theorem State.fb_eq_of_pixel_eq {s t : State} (h : ∀ r c, r < 32 → c < 64 → t.pixel r c = s.pixel r c) : t.fb = s.fb := by
  refine Vector.ext fun r hr => BitVec.eq_of_getLsbD_eq fun c hc => ?_
  rw [← State.pixel_of_lt _ _ _ hr, ← State.pixel_of_lt _ _ _ hr, h r c hr hc]

theorem State.pixel_endAt (s : State) (a : Addr) (r c : Nat) : (s.endAt a).pixel r c = s.pixel r c := rfl

theorem exec_cls (s : State) : exec .cls s = advance (s.setFb (Vector.replicate 32 0)) := rfl

theorem State.pixel_setFb_zero (s : State) (r c : Nat) : (s.setFb (Vector.replicate 32 0)).pixel r c = false := by
  simp [State.pixel]

/-! One draw. -/

theorem flagByte_eq_one_iff (c : Bool) : flagByte c = 1 ↔ c = true := by
  cases c <;> decide

/-- The state that `Dxyn` goes on from: the sprite drawn and VF written (R163). -/
def State.drawn (s : State) (x y : Reg) (n : BitVec 4) : State :=
  (s.setFb (s.drawSprite x y n).1).writeV VF (flagByte (s.drawSprite x y n).2)

theorem exec_drw (x y : Reg) (n : BitVec 4) (s : State) : exec (.drw x y n) s = advance (s.drawn x y n) := rfl

section
variable {s t : State} {x y : Reg} {n : BitVec 4}

theorem readV_of_exec_drw (h : exec (.drw x y n) s = .next t) (r : Reg) :
    t.readV r = if r = VF then flagByte (s.drawSprite x y n).2 else s.readV r := by
  rw [exec_drw, advance_eq] at h
  injection h with h; subst h
  rw [State.readV_endAt, State.drawn, State.readV_writeV]
  rfl

/-- A pixel of the screen changes exactly where the sprite has a 1 (R163). -/
theorem pixel_ne_iff_of_exec_drw (h : exec (.drw x y n) s = .next t) {r c : Nat} (hr : r < 32) (hc : c < 64) :
    t.pixel r c ≠ s.pixel r c ↔ SpritePixel s x y n r c := by
  rw [exec_drw, advance_eq] at h
  injection h with h; subst h
  have hrow : (s.drawn x y n).fb[r] = s.fb[r] ^^^ rowOfSprite s (s.spriteColumn x) (s.spriteTop y) n.toNat 0 r :=
    State.drawRows_row ..
  rw [State.pixel_endAt, State.pixel_of_lt _ _ _ hr, State.pixel_of_lt _ _ _ hr, hrow, BitVec.getLsbD_xor,
    ← rowOfSprite_getLsbD _ _ _ _ _ _ hc]
  cases s.fb[r].getLsbD c <;> simp

/-- The draw collides exactly where the sprite has a 1 on a lit pixel of the screen (R163). -/
theorem drawSprite_hit_iff : (s.drawSprite x y n).2 = true ↔
    ∃ r c, r < 32 ∧ c < 64 ∧ s.pixel r c = true ∧ SpritePixel s x y n r c := by
  rw [State.drawSprite, State.drawRows_hit]
  constructor
  · rintro (hfalse | ⟨r, hr, hcommon⟩)
    · cases hfalse
    · obtain ⟨c, hc, hlit, hsprite⟩ := (and_ne_zero_iff _ _).mp hcommon
      exact ⟨r, c, hr, hc, by rwa [State.pixel_of_lt _ _ _ hr], (rowOfSprite_getLsbD _ _ _ _ _ _ hc).mp hsprite⟩
  · rintro ⟨r, c, hr, hc, hlit, hsprite⟩
    rw [State.pixel_of_lt _ _ _ hr] at hlit
    exact .inr ⟨r, hr, (and_ne_zero_iff _ _).mpr ⟨c, hc, hlit, (rowOfSprite_getLsbD _ _ _ _ _ _ hc).mpr hsprite⟩⟩

theorem readV_VF_eq_one_iff_of_exec_drw (h : exec (.drw x y n) s = .next t) :
    t.readV VF = 1 ↔ ∃ r c, r < 32 ∧ c < 64 ∧ s.pixel r c = true ∧ SpritePixel s x y n r c := by
  rw [readV_of_exec_drw h, if_pos rfl, flagByte_eq_one_iff, drawSprite_hit_iff]

/-- The collision flag in terms of the screen before and after: some pixel went from 1 to 0. -/
theorem drawSprite_hit_iff_cleared (h : exec (.drw x y n) s = .next t) : (s.drawSprite x y n).2 = true ↔
    ∃ r c, r < 32 ∧ c < 64 ∧ s.pixel r c = true ∧ t.pixel r c = false := by
  rw [drawSprite_hit_iff]
  refine exists₂_congr fun r c => and_congr_right fun hr => and_congr_right fun hc => and_congr_right fun hlit => ?_
  rw [← pixel_ne_iff_of_exec_drw h hr hc, hlit, ne_eq, Bool.not_eq_true]

end

/-- Settles O26: the framebuffer is 0 as a whole, and CLS goes on to the next instruction (`exec_advance_end`). -/
theorem clearDisplay : Obligations.ClearDisplay :=
  ⟨rowDecodes_cls, fun s => ⟨_, exec_cls s, fun r c _ _ => s.pixel_setFb_zero r c, exec_advance_end (exec_cls s) rfl rfl⟩⟩

/-- Settles O27: a pixel differs exactly where the sprite has a 1 (`pixel_ne_iff_of_exec_drw`), and VF holds the collision
(`drawSprite_hit_iff_cleared`). -/
theorem drawTogglesTheSpritePixels : Obligations.DrawTogglesTheSpritePixels := by
  refine ⟨rowDecodes_drw, fun s x y n => ?_⟩
  have hexec := exec_drw x y n s
  refine ⟨_, hexec, rfl, rfl, fun r c hr hc => ⟨fun hsprite => ?_, fun hnot => ?_⟩, fun hcleared => ?_, fun hnone => ?_,
    fun r hr => ?_, exec_advance_end hexec rfl rfl⟩
  · exact Bool.eq_not.mpr ((pixel_ne_iff_of_exec_drw hexec hr hc).mpr hsprite)
  · exact not_not.mp (mt (pixel_ne_iff_of_exec_drw hexec hr hc).mp hnot)
  · rw [readV_of_exec_drw hexec, if_pos rfl, (drawSprite_hit_iff_cleared hexec).mpr hcleared]
    rfl
  · rw [readV_of_exec_drw hexec, if_pos rfl, Bool.eq_false_iff.mpr (mt (drawSprite_hit_iff_cleared hexec).mp hnone)]
    rfl
  · rw [readV_of_exec_drw hexec, if_neg (by simpa using hr)]

/-! The same draw again (R164). -/

/-- The sprite is read from memory, I, Vx and Vy, which a draw leaves when neither register is VF. -/
theorem spritePixel_iff_of_exec_drw {s t : State} {x y : Reg} {n : BitVec 4} (hx : x ≠ VF) (hy : y ≠ VF)
    (h : exec (.drw x y n) s = .next t) (r c : Nat) : SpritePixel t x y n r c ↔ SpritePixel s x y n r c := by
  have hVx : t.readV x = s.readV x := by rw [readV_of_exec_drw h, if_neg hx]
  have hVy : t.readV y = s.readV y := by rw [readV_of_exec_drw h, if_neg hy]
  obtain ⟨hsame, -⟩ : Frame [.fb, .v, .pc] s t := exec_frame h rfl
  have hmem : Same .mem s t := hsame .mem (by decide)
  have hi : t.i = s.i := hsame .i (by decide)
  simp only [SpritePixel, State.spriteTop, State.spriteColumn, State.indexAddr, hVx, hVy, hi, hmem _]

/-- Settles O28: both draws toggle the same pixels (`spritePixel_iff_of_exec_drw`), so the second undoes the first, and it collides
where the first lit a pixel. -/
theorem drawTwiceRestoresTheScreen : Obligations.DrawTwiceRestoresTheScreen := by
  intro s t u x y n hx hy hfirst hsecond
  have hsprite := spritePixel_iff_of_exec_drw hx hy hfirst
  have hflag : u.readV VF = 1 ↔ ∃ r c, r < 32 ∧ c < 64 ∧ SpritePixel s x y n r c ∧ s.pixel r c = false := by
    rw [readV_VF_eq_one_iff_of_exec_drw hsecond]
    refine exists₂_congr fun r c => and_congr_right fun hr => and_congr_right fun hc => ?_
    rw [hsprite, and_comm, ← pixel_ne_iff_of_exec_drw hfirst hr hc]
    cases s.pixel r c <;> cases t.pixel r c <;> decide
  refine ⟨State.fb_eq_of_pixel_eq fun r c hr hc => ?_, hflag, fun hdark => ?_⟩
  · have hboth : u.pixel r c ≠ t.pixel r c ↔ t.pixel r c ≠ s.pixel r c := by
      rw [pixel_ne_iff_of_exec_drw hsecond hr hc, hsprite, pixel_ne_iff_of_exec_drw hfirst hr hc]
    cases hs : s.pixel r c <;> cases ht : t.pixel r c <;> simpa [hs, ht] using hboth
  · rw [hflag]
    exact exists₂_congr fun r c => and_congr_right fun _ => and_congr_right fun _ => and_iff_left_of_imp (hdark r c)

end Sys2Proof.Machine
end

section
/-! PROOFS. Keypad and timers (44_keypad_and_timers.md R180 to R186). First the scan of the keys as a statement about the flags,
then the two outcomes of Fx0A, each as one update of the state. -/

namespace Sys2Proof.Machine

/-! The least pressed key (R183). -/

theorem State.keys_eq_zero_iff (s : State) : s.keys = 0 ↔ ∀ k, k < 16 → s.keys.getLsbD k = false := by
  refine ⟨fun h k _ => by simp [h], fun h => BitVec.eq_of_getLsbD_eq fun k hk => ?_⟩
  simpa using h k hk

/-- The scan finds `k` exactly when `k` is pressed and no key below it is: of two such keys neither is below the other. -/
theorem State.leastKey_eq_some_iff (s : State) (k : Nat) :
    s.leastKey = some k ↔ k < 16 ∧ s.keys.getLsbD k = true ∧ ∀ j, j < k → s.keys.getLsbD j = false := by
  constructor
  · intro h
    obtain ⟨-, hk, hpressed, hbelow⟩ := leastKeyFrom_some h
    exact ⟨by omega, hpressed, fun j hj => hbelow j (Nat.zero_le j) hj⟩
  · rintro ⟨hk, hpressed, hbelow⟩
    cases hscan : s.leastKey with
    | none =>
      have hup := leastKeyFrom_none hscan k (Nat.zero_le k) (by omega)
      exact absurd hpressed (by simp [hup])
    | some m =>
      obtain ⟨-, -, hm, hbelow'⟩ := leastKeyFrom_some hscan
      obtain hlt | rfl | hgt := lt_trichotomy m k
      · exact absurd hm (by simp [hbelow m hlt])
      · rfl
      · exact absurd hpressed (by simp [hbelow' k (Nat.zero_le k) hgt])

/-! Fx0A by the scan (R183). -/

section
variable {s : State}

theorem exec_ldVxK_of_leastKey_none (x : Reg) (h : s.leastKey = none) :
    exec (.ldVxK x) s = .next { s with status := .waitKey } := by
  rw [exec, execLdVxK, h, waitForKey]

theorem exec_ldVxK_of_leastKey_some (x : Reg) {k : Nat} (h : s.leastKey = some k) :
    exec (.ldVxK x) s = advance (s.writeV x (BitVec.ofNat 8 k)) := by
  rw [exec, execLdVxK, h]

end

/-- The status is no piece of the spec's state, so a wait changes none (log entry 3). -/
theorem State.waitKey_frame (s : State) : Frame [] s { s with status := .waitKey } := by
  refine ⟨fun p _ => Same.of_field ?_, ⟨rfl, rfl, rfl⟩, rfl, rfl⟩
  cases p <;> rfl

/-! The timers (R185, R186). -/

theorem exec_ldDtVx (x : Reg) (s : State) : exec (.ldDtVx x) s = advance (s.setDelay (s.readV x)) := rfl

theorem exec_ldStVx (x : Reg) (s : State) : exec (.ldStVx x) s = advance (s.setSound (s.readV x)) := rfl

theorem State.soundActive_iff (s : State) : s.soundActive = true ↔ s.st ≠ 0 := bne_iff_ne

/-! The statements. -/

/-- Settles O30, by the scan of the keys: none is pressed (`State.leastKey_eq_none_iff`) and the machine waits, or `k` is the least
(`State.leastKey_eq_some_iff`) and one register is written (`exec_writeV`), which holds every key number. -/
theorem waitForKeyTakesTheLeastKey : Obligations.WaitForKeyTakesTheLeastKey := by
  refine ⟨rowDecodes_ldVxK, fun s x hnone => ?_, fun s x k hk hpressed hbelow => ?_⟩
  · have hscan : s.leastKey = none := s.leastKey_eq_none_iff.mpr (s.keys_eq_zero_iff.mpr hnone)
    exact ⟨_, exec_ldVxK_of_leastKey_none x hscan, rfl, s.waitKey_frame⟩
  · have hscan : s.leastKey = some k := (s.leastKey_eq_some_iff k).mpr ⟨hk, hpressed, hbelow⟩
    refine exec_writeV (exec_ldVxK_of_leastKey_some x hscan) rfl fun t ht => ?_
    rw [ht, BitVec.toNat_ofNat, Nat.mod_eq_of_lt (by omega)]

/-- Settles O29: both are a skip (`exec_skip`) on the flag of key Vx mod 16, the second on its negation. -/
theorem skipsOnAKey : Obligations.SkipsOnAKey := by
  refine ⟨rowDecodes_skp, rowDecodes_sknp, fun s x k hk => ?_⟩
  have hflag : s.keyDown (s.keyNumber x) = s.keys.getLsbD k := by rw [hk, State.keyDown, State.keyNumber]
  refine ⟨exec_skip (c := s.keyDown (s.keyNumber x)) rfl rfl hflag.trans hflag.trans,
    exec_skip (c := !s.keyDown (s.keyNumber x)) rfl rfl (fun hup => ?_) (fun hdown => ?_)⟩
  · rw [hflag, hup, Bool.not_false]
  · rw [hflag, hdown, Bool.not_true]

/-- Settles O31: one register, DT or ST is written (`exec_writeV`, `exec_advance_end`), and the sound is on where ST is not 0
(`State.soundActive_iff`). -/
theorem timerReadAndWrite : Obligations.TimerReadAndWrite :=
  ⟨rowDecodes_ldVxDt, rowDecodes_ldDtVx, rowDecodes_ldStVx, fun s x =>
    ⟨exec_writeV rfl rfl fun _ ht => ht,
      ⟨_, exec_ldDtVx x s, rfl, exec_advance_end (exec_ldDtVx x s) rfl rfl⟩,
      ⟨_, exec_ldStVx x s, rfl, State.soundActive_iff _, exec_advance_end (exec_ldStVx x s) rfl rfl⟩⟩⟩

end Sys2Proof.Machine
end

section
/-! PROOFS. Memory instructions (45_memory_ops.md R201 to R203). First a block at I and the index after it, then what each of the
three instructions leaves to be read. -/

namespace Sys2Proof.Machine

/-! A block at I (R202). -/

@[simp] theorem State.memRead_setIndex (s : State) (w : Word) (a : Nat) : (s.setIndex w).memRead a = s.memRead a := rfl

/-- A block stored at I is read back byte for byte, for no two of its addresses agree modulo 4096. -/
theorem State.memRead_indexAddr_memWriteList {s : State} (hm : s.mem.wf = true) {bs : List Byte} (hlen : bs.length ≤ 4096)
    {k : Nat} (hk : k < bs.length) : (s.memWriteList (s.indexAddr 0) bs).memRead (s.indexAddr k) = bs[k] :=
  State.memRead_memWriteList_inside hm (s.indexAddr 0) bs hlen k hk

/-- 8 bits hold every digit (R201). -/
theorem decimalDigits_map_toNat (b : Byte) :
    (decimalDigits b).map BitVec.toNat = [b.toNat / 100, b.toNat / 10 % 10, b.toNat % 10] := by
  have := b.isLt
  simp only [decimalDigits, List.map_cons, List.map_nil, BitVec.toNat_ofNat, List.cons.injEq, and_true]
  omega

theorem State.indexAfterBlock_toNat_of_increment {s : State} (h : s.cfg.storeLoadMode = .increment) (x : Reg) :
    (s.indexAfterBlock x).toNat = (s.i.toNat + x.val + 1) % 65536 := by
  simp only [State.indexAfterBlock, h, BitVec.toNat_add, BitVec.toNat_ofNat]
  omega

/-! Each instruction as one update of the state, and what is read after it. -/

theorem exec_ldB (x : Reg) (s : State) :
    exec (.ldB x) s = advance (s.memWriteList (s.indexAddr 0) (decimalDigits (s.readV x))) := rfl

theorem exec_ldMemVx (x : Reg) (s : State) :
    exec (.ldMemVx x) s =
      advance ((s.memWriteList (s.indexAddr 0) (s.blockOfRegs x)).setIndex (s.indexAfterBlock x)) := rfl

theorem exec_ldVxMem (x : Reg) (s : State) :
    exec (.ldVxMem x) s = advance ((s.loadBlock x).setIndex (s.indexAfterBlock x)) := rfl

section
variable {s t : State} {x : Reg}

/-- After the BCD store the byte at I + k is digit k (R201). -/
theorem toNat_memRead_of_exec_ldB (hm : s.mem.wf = true) (h : exec (.ldB x) s = .next t) {k : Nat} (hk : k < 3) :
    (t.memRead (s.indexAddr k)).toNat =
      [(s.readV x).toNat / 100, (s.readV x).toNat / 10 % 10, (s.readV x).toNat % 10][k] := by
  rw [exec_ldB, advance_eq] at h
  injection h with h
  have hlen := decimalDigits_length (s.readV x)
  rw [← h, State.memRead_endAt, State.memRead_indexAddr_memWriteList hm (by omega) (k := k) (by omega)]
  simp only [← decimalDigits_map_toNat, List.getElem_map]

/-- After the block store the byte at I + r is Vr, for every r up to x (R202). -/
theorem memRead_of_exec_ldMemVx (hm : s.mem.wf = true) (h : exec (.ldMemVx x) s = .next t) {r : Reg} (hr : r ≤ x) :
    t.memRead (s.indexAddr r.val) = s.readV r := by
  rw [exec_ldMemVx, advance_eq] at h
  injection h with h
  have hlen := s.blockOfRegs_length x
  have hrx : r.val ≤ x.val := hr
  rw [← h, State.memRead_endAt, State.memRead_setIndex,
    State.memRead_indexAddr_memWriteList hm (by omega) (k := r.val) (by omega), State.blockOfRegs_getElem]

/-- After the block load Vr is the byte at I + r, for every r up to x, and no other register changed (R203). -/
theorem readV_of_exec_ldVxMem (h : exec (.ldVxMem x) s = .next t) (r : Reg) :
    t.readV r = if r ≤ x then s.memRead (s.indexAddr r.val) else s.readV r := by
  rw [exec_ldVxMem, advance_eq] at h
  injection h with h
  rw [← h, State.readV_endAt, State.readV_setIndex, State.readV_loadBlock]

end

/-! The statements. -/

/-- Settles O32: the byte at I + k is digit k (`toNat_memRead_of_exec_ldB`), and the rest of memory lies outside the block. -/
theorem decimalDigitsAreStored : Obligations.DecimalDigitsAreStored := by
  refine ⟨rowDecodes_ldB, fun s x hm => ?_⟩
  have hexec := exec_ldB x s
  have hdigit {k : Nat} (hk : k < 3) := toNat_memRead_of_exec_ldB hm hexec hk
  exact ⟨_, hexec, hdigit (k := 0) (by decide), hdigit (k := 1) (by decide), hdigit (k := 2) (by decide),
    fun a ha => State.memRead_memWriteList_outside s _ _ a ha, exec_advance_end hexec (State.memWriteList_pc ..) rfl⟩

/-- Settles O33: the bytes of the block are V0 to Vx (`memRead_of_exec_ldMemVx`), the rest of memory lies outside it, and the mode
selects the index after it. -/
theorem blockStore : Obligations.BlockStore := by
  refine ⟨rowDecodes_ldMemVx, fun s x hm => ?_⟩
  have hexec := exec_ldMemVx x s
  refine ⟨_, hexec, fun r hr => memRead_of_exec_ldMemVx hm hexec hr, fun a ha => ?_,
    fun hmode => State.indexAfterBlock_toNat_of_increment hmode x, fun hmode => State.indexAfterBlock_of_unchanged hmode x,
    exec_advance_end hexec (State.memWriteList_pc ..) rfl⟩
  rw [← s.blockOfRegs_length x] at ha
  exact State.memRead_memWriteList_outside s _ _ a ha

/-- Settles O34: the load reads V0 to Vx from I upward (`readV_of_exec_ldVxMem`), and from where the store left them
(`memRead_of_exec_ldMemVx`) these are the registers that were stored. -/
theorem blockLoad : Obligations.BlockLoad := by
  refine ⟨rowDecodes_ldVxMem, fun s x => ?_, fun s t u v x hm hstore hmem hi hload r hr => ?_⟩
  · have hexec := exec_ldVxMem x s
    have hread := readV_of_exec_ldVxMem hexec
    exact ⟨_, hexec, fun r hr => (hread r).trans (if_pos hr), fun r hr => (hread r).trans (if_neg hr.not_ge),
      fun hmode => State.indexAfterBlock_toNat_of_increment hmode x, fun hmode => State.indexAfterBlock_of_unchanged hmode x,
      exec_advance_end hexec rfl rfl⟩
  · have haddr : u.indexAddr r.val = s.indexAddr r.val := by rw [State.indexAddr, State.indexAddr, hi]
    calc v.readV r = u.memRead (u.indexAddr r.val) := (readV_of_exec_ldVxMem hload r).trans (if_pos hr)
      _ = t.memRead (s.indexAddr r.val) := by rw [haddr, State.memRead_eq_of_mem_eq hmem]
      _ = s.readV r := memRead_of_exec_ldMemVx hm hstore hr

end Sys2Proof.Machine
end

section
/-! PROOFS. Statuses, faults and the standing program (60_exceptions.md R220 to R237). First TICK, then what a CYCLE does at each of
the three words that do not end it with OK, and the inversion of a CYCLE by its status; then a program that stands at a fault or
at a wait while events go by. -/

namespace Sys2Proof.Machine

/-! TICK (R230, R231). -/

theorem Frame.refl (changed : List Part) (s : State) : Frame changed s s :=
  ⟨fun p _ => Same.refl p s, ⟨rfl, rfl, rfl⟩, rfl, rfl⟩

theorem SameHost.trans {s t u : State} (hst : SameHost s t) (htu : SameHost t u) : SameHost s u := by
  obtain ⟨hcfg, hinbox, hschedule⟩ := hst
  obtain ⟨hcfg', hinbox', hschedule'⟩ := htu
  exact ⟨hcfg'.trans hcfg, hinbox'.trans hinbox, hschedule'.trans hschedule⟩

theorem Frame.trans {changed : List Part} {s t u : State} (hst : Frame changed s t) (htu : Frame changed t u) :
    Frame changed s u := by
  obtain ⟨hsame, hhost, hrand, hdraws⟩ := hst
  obtain ⟨hsame', hhost', hrand', hdraws'⟩ := htu
  exact ⟨fun p hp => (hsame p hp).trans (hsame' p hp), hhost.trans hhost', hrand'.trans hrand, hdraws'.trans hdraws⟩

theorem State.tick_frame (s : State) : Frame [.dt, .st] s s.tick := by
  refine ⟨fun p hp => applyEvent_keeps_part (e := .tick) rfl rfl ?_, ⟨rfl, rfl, rfl⟩, rfl, rfl⟩
  simpa [eventMayChange] using hp

theorem State.soundActive_iff_toNat (s : State) : s.soundActive = true ↔ s.st.toNat ≠ 0 :=
  s.soundActive_iff.trans (not_congr (BitVec.toNat_inj (y := 0#8)).symm)

/-- Settles O39: each timer is counted down (`countDown_toNat`), which subtracts one as natural numbers do. -/
theorem tickCountsDown : Obligations.TickCountsDown := by
  intro s
  refine ⟨s.tick, rfl, fun _ => countDown_toNat s.dt, fun hdt => ?_, fun _ => countDown_toNat s.st, fun hst => ?_,
    s.soundActive_iff_toNat, rfl, s.tick_frame⟩
  · rw [State.tick_dt, countDown_toNat, hdt]
  · rw [State.tick_st, countDown_toNat, hst]

/-- Settles O40, by induction on the number of TICKs, each of which is one count down (`countDown_toNat`). -/
theorem timersAfterManyTicks : Obligations.TimersAfterManyTicks := by
  intro n
  induction n with
  | zero => exact fun s => ⟨s, rfl, rfl, rfl, Frame.refl _ s⟩
  | succ n ih =>
    intro s
    obtain ⟨t, hrun, hdt, hst, hframe⟩ := ih s.tick
    rw [State.tick_dt, countDown_toNat] at hdt
    rw [State.tick_st, countDown_toNat] at hst
    exact ⟨t, hrun, by omega, by omega, s.tick_frame.trans hframe⟩

/-! A CYCLE at a word that does not end it with OK (R183, R221, R222). -/

section
variable {s t : State}

theorem cycle_of_decodeWord_error {e : DecodeError} (h : decodeWord s.fetchWord = .error e) :
    cycle s = .next (({ s with pc := if s.cfg.allowUnknown then s.nextPc else s.pc } : State).raise
      (.unknownOpcode s.fetchWord s.pc)) := by
  rw [cycle, h]
  exact unknownOpcode_eq _ _

theorem cycle_of_ret_of_stack_nil (h : decodeWord s.fetchWord = .ok .ret) (hstack : s.stack = []) :
    cycle s = .next (s.raise (.stackUnderflow s.pc)) := by
  rw [cycle_of_decodeWord h, exec_ret_of_stack_nil hstack]

theorem cycle_of_waitsForKey (h : WaitsForKey s) : cycle s = .next { s with status := .waitKey } := by
  obtain ⟨⟨x, hx⟩, hkeys⟩ := h
  rw [cycle_of_decodeWord hx, exec_ldVxK_of_leastKey_none x (s.leastKey_eq_none_iff.mpr hkeys)]

/-- The four ends of a CYCLE, each with its cause and what it leaves (R220). -/
theorem cycle_ends (h : cycle s = .next t) :
    (t.status = .ok ∧ ∃ i, decodeWord s.fetchWord = .ok i ∧ exec i s = .next t) ∨
    (WaitsForKey s ∧ t = { s with status := .waitKey }) ∨
    ((∃ e, decodeWord s.fetchWord = .error e) ∧ t.status = .fault (.unknownOpcode s.fetchWord s.pc)) ∨
    ((decodeWord s.fetchWord = .ok .ret ∧ s.stack = []) ∧ t = s.raise (.stackUnderflow s.pc)) := by
  obtain ⟨i, hi, hexec⟩ | ⟨herr, rfl⟩ := cycle_cases h
  · obtain ⟨hok, -⟩ | ⟨rfl, ⟨x, rfl⟩, hkeys⟩ | ⟨rfl, rfl, hstack⟩ := exec_ends hexec
    · exact .inl ⟨hok, i, hi, hexec⟩
    · exact .inr (.inl ⟨⟨⟨x, hi⟩, hkeys⟩, rfl⟩)
    · exact .inr (.inr (.inr ⟨⟨hi, hstack⟩, rfl⟩))
  · exact .inr (.inr (.inl ⟨herr, rfl⟩))

/-! Each code but 0 has its one cause: a CYCLE with the code ends in no other way, and at the cause it has the code. -/

theorem code_eq_one_iff (h : cycle s = .next t) : t.status.code = 1 ↔ WaitsForKey s := by
  refine ⟨fun hcode => ?_, fun hwaits => ?_⟩
  · obtain ⟨hout, -⟩ | ⟨hwaits, -⟩ | ⟨-, hout⟩ | ⟨-, rfl⟩ := cycle_ends h
    case inr.inl => exact hwaits
    all_goals simp [Status.code, *] at hcode
  · rw [cycle_of_waitsForKey hwaits] at h
    injection h with h
    simp [← h, Status.code]

theorem code_eq_two_iff (h : cycle s = .next t) : t.status.code = 2 ↔ ∃ e, decodeWord s.fetchWord = .error e := by
  refine ⟨fun hcode => ?_, fun ⟨e, he⟩ => ?_⟩
  · obtain ⟨hout, -⟩ | ⟨-, rfl⟩ | ⟨herr, -⟩ | ⟨-, rfl⟩ := cycle_ends h
    case inr.inr.inl => exact herr
    all_goals simp [Status.code, *] at hcode
  · rw [cycle_of_decodeWord_error he] at h
    injection h with h
    simp [← h, Status.code]

theorem code_eq_three_iff (h : cycle s = .next t) :
    t.status.code = 3 ↔ decodeWord s.fetchWord = .ok .ret ∧ s.stack = [] := by
  refine ⟨fun hcode => ?_, fun ⟨hret, hstack⟩ => ?_⟩
  · obtain ⟨hout, -⟩ | ⟨-, rfl⟩ | ⟨-, hout⟩ | ⟨hret, -⟩ := cycle_ends h
    case inr.inr.inr => exact hret
    all_goals simp [Status.code, *] at hcode
  · rw [cycle_of_ret_of_stack_nil hret hstack] at h
    injection h with h
    simp [← h, Status.code]

end

theorem Status.code_le_three (st : Status) : st.code ≤ 3 := by
  cases st with
  | ok | waitKey => simp [Status.code]
  | fault f => cases f <;> simp [Status.code]

/-! The words of the three causes (R74). -/

theorem decodeWord_eq_ret_iff (w : Word) : decodeWord w = .ok .ret ↔ w = 0x00EE :=
  ⟨fun h => (decodeWord_ok h).2.symm, fun h => by rw [h]; rfl⟩

theorem encode_ldVxK_masked : ∀ x : Reg, encode (.ldVxK x) &&& 0xF0FF = 0xF00A := by
  decide

theorem exists_decodeWord_eq_ldVxK_iff (w : Word) : (∃ x, decodeWord w = .ok (.ldVxK x)) ↔ w &&& 0xF0FF = 0xF00A := by
  refine ⟨fun ⟨x, hx⟩ => ?_, fun h => ⟨fieldX w, rowDecodes_ldVxK w h⟩⟩
  rw [← (decodeWord_ok hx).2, encode_ldVxK_masked]

theorem exists_decodeWord_error_iff (w : Word) :
    (∃ e, decodeWord w = .error e) ↔ ∀ r ∈ opcodeTable, r.selects w = false := by
  obtain ⟨-, hselected, hunselected⟩ := decodeFollowsDispatchTable
  refine ⟨fun ⟨e, he⟩ r hr => ?_, fun hnone => ⟨_, hunselected w hnone⟩⟩
  by_contra hsel
  obtain ⟨i, hi, -⟩ := hselected w r hr (Bool.eq_true_of_not_eq_false hsel)
  exact absurd (he.symm.trans hi) (by simp)

/-! The statements about one CYCLE. -/

/-- Settles O37: each code but 0 has its one cause (`code_eq_one_iff` and the two lemmas after it), read off the word's bits by
`exists_decodeWord_eq_ldVxK_iff` and its neighbours; what the CYCLE leaves is said by `cycle_ends`. -/
theorem everyCycleReturnsItsStatus : Obligations.EveryCycleReturnsItsStatus := by
  intro s
  obtain ⟨t, ht⟩ := cycle_next s
  rw [← exists_decodeWord_eq_ldVxK_iff, ← exists_decodeWord_error_iff, ← decodeWord_eq_ret_iff]
  refine ⟨t, ht, t.status.code_le_three, code_eq_one_iff ht, code_eq_two_iff ht, code_eq_three_iff ht, ?_⟩
  obtain ⟨hok, hexec⟩ | ⟨-, rfl⟩ | ⟨-, hfault⟩ | ⟨-, rfl⟩ := cycle_ends ht
  · simpa [hok, Status.code] using hexec
  · simpa [Status.code] using s.waitKey_frame
  · simp [hfault, Status.code]
  · simpa [Status.code] using s.raise_frame _

/-- Settles O35: the CYCLE writes PC and the record of the fault (`cycle_of_decodeWord_error`). -/
theorem unknownOpcodeTouchesOnlyPc : Obligations.UnknownOpcodeTouchesOnlyPc := by
  intro s h
  have hcycle := cycle_of_decodeWord_error h
  refine ⟨_, hcycle, rfl, fun hallow => ?_, fun hallow => ?_, fun p hp => cycle_keeps_part (r := none) hcycle ?_,
    cycle_sameHost hcycle, rfl, rfl⟩
  · simp [PcMovedBy, hallow, nextPc_toNat]
  · simp [hallow]
  · simpa [eventMayChange, h] using hp

/-- Settles O36: `00EE` is RET, whose CYCLE at an empty stack only records the fault (`cycle_of_ret_of_stack_nil`). -/
theorem stackUnderflowTouchesNothing : Obligations.StackUnderflowTouchesNothing := by
  intro s hword hstack
  exact ⟨_, cycle_of_ret_of_stack_nil ((decodeWord_eq_ret_iff _).mpr hword) hstack, rfl, s.raise_frame _⟩

/-! A program that stands still: the CYCLE there changes nothing, so an event changes only what TICK and KEYS write. -/

section
variable {e : Event} {s t : State} {f : Fault}

/-- What changes nothing from the state with RAND latched changes none of the spec's state. -/
theorem Frame.same_of_latchRand {r : Option Byte} (h : Frame [] (s.latchRand r) t) (p : Part) : Same p s t := by
  obtain ⟨hsame, -⟩ := h
  exact (hsame p List.not_mem_nil).of_latchRand

theorem applyEvent_standsStill {out : Status}
    (hcycle : ∀ r, ∃ u, cycle (s.latchRand r) = .next u ∧ u.status = out ∧ Frame [] (s.latchRand r) u)
    (he : e.isReset = false) (h : applyEvent e s = .next t) :
    StandsStill [.dt, .st, .keys] out (e.isCycle = true) s t := by
  cases e with
  | reset _ => cases he
  | keys _ | tick =>
    refine ⟨fun p hp => applyEvent_keeps_part rfl h ?_, ?_⟩
    · cases p <;> simp [eventMayChange] at hp ⊢
    · injection h with h; subst h; simp [Event.isCycle]
  | cycle r =>
    obtain ⟨u, hu, hout, hframe⟩ := hcycle r
    obtain rfl : u = t := by simpa [applyEvent, hu] using h
    exact ⟨fun p _ => hframe.same_of_latchRand p, fun _ => hout⟩

/-! The standing fault (R227, R258). -/

theorem StandsAtFault.of_same (hs : StandsAtFault s f) (hmem : Same .mem s t) (hpc : Same .pc s t)
    (hstack : Same .stack s t) (hcfg : t.cfg = s.cfg) : StandsAtFault t f := by
  have hpc' : t.pc = s.pc := hpc
  have hstack' : t.stack = s.stack := hstack
  rw [StandsAtFault, State.fetchWord_eq_of_same hmem hpc, hpc', hstack', hcfg]
  exact hs

theorem StandsAtFault.latchRand (hs : StandsAtFault s f) (r : Option Byte) : StandsAtFault (s.latchRand r) f := by
  simpa [StandsAtFault] using hs

/-- A CYCLE at a standing fault only records it: an unknown word is not stepped over. -/
theorem cycle_of_standsAtFault (hs : StandsAtFault s f) : cycle s = .next (s.raise f) := by
  obtain ⟨⟨e, he⟩, hallow, rfl⟩ | ⟨hret, hstack, rfl⟩ := hs
  · simp [cycle_of_decodeWord_error he, hallow]
  · exact cycle_of_ret_of_stack_nil hret hstack

theorem applyEvent_standsStill_of_standsAtFault (he : e.isReset = false) (hs : StandsAtFault s f)
    (h : applyEvent e s = .next t) : StandsStill [.dt, .st, .keys] (.fault f) (e.isCycle = true) s t :=
  applyEvent_standsStill (fun r => ⟨_, cycle_of_standsAtFault (hs.latchRand r), rfl, State.raise_frame _ f⟩) he h

/-- The fault still stands: memory, PC, the stack and `allow_unknown` are the same. -/
theorem applyEvent_keeps_standsAtFault (he : e.isReset = false) (hs : StandsAtFault s f)
    (h : applyEvent e s = .next t) : StandsAtFault t f := by
  obtain ⟨hsame, -⟩ := applyEvent_standsStill_of_standsAtFault he hs h
  obtain ⟨hcfg, -⟩ := applyEvent_sameHost he h
  exact hs.of_same (hsame .mem (by decide)) (hsame .pc (by decide)) (hsame .stack (by decide)) hcfg

/-! The wait for a key (R237). -/

theorem WaitsForKey.of_same (hs : WaitsForKey s) (hmem : Same .mem s t) (hpc : Same .pc s t) (hkeys : t.keys = 0) :
    WaitsForKey t := by
  obtain ⟨hword, -⟩ := hs
  rw [WaitsForKey, State.fetchWord_eq_of_same hmem hpc]
  exact ⟨hword, hkeys⟩

theorem WaitsForKey.latchRand (hs : WaitsForKey s) (r : Option Byte) : WaitsForKey (s.latchRand r) := by
  simpa [WaitsForKey] using hs

theorem applyEvent_standsStill_of_waitsForKey (he : e.isReset = false) (hs : WaitsForKey s)
    (h : applyEvent e s = .next t) : StandsStill [.dt, .st, .keys] .waitKey (e.isCycle = true) s t :=
  applyEvent_standsStill (fun r => ⟨_, cycle_of_waitsForKey (hs.latchRand r), rfl, State.waitKey_frame _⟩) he h

/-- While it waits only KEYS can write a flag, and the host sends all flags 0. -/
theorem applyEvent_keys_eq_zero (he : e.isReset = false) (hzero : ∀ k, e = .keys k → k = 0) (hs : WaitsForKey s)
    (h : applyEvent e s = .next t) : t.keys = 0 := by
  have hkeys : s.keys = 0 := hs.2
  cases e with
  | reset _ => cases he
  | keys k => injection h with h; rw [← h, State.latchKeys_keys, hzero k rfl]
  | tick => injection h with h; rw [← h, State.tick_keys, hkeys]
  | cycle r =>
    rw [applyEvent, cycle_of_waitsForKey (hs.latchRand r)] at h
    injection h with h
    simp [← h, hkeys]

theorem applyEvent_keeps_waitsForKey (he : e.isReset = false) (hzero : ∀ k, e = .keys k → k = 0) (hs : WaitsForKey s)
    (h : applyEvent e s = .next t) : WaitsForKey t := by
  obtain ⟨hsame, -⟩ := applyEvent_standsStill_of_waitsForKey he hs h
  exact hs.of_same (hsame .mem (by decide)) (hsame .pc (by decide)) (applyEvent_keys_eq_zero he hzero hs h)

end

/-! The statements about every sequence of events. -/

/-- Settles O42, by induction on the sequence (`runEvents_standsStill`): every event keeps the fault and stands still. -/
theorem faultIsReturnedForEver : Obligations.FaultIsReturnedForEver := by
  intro s f es hs hes
  obtain ⟨t, ht⟩ := runEvents_next_of_no_reset hes s
  obtain ⟨hstands, hsame, hout⟩ := runEvents_standsStill (P := (StandsAtFault · f))
    (fun _ _ _ he hs h => ⟨applyEvent_keeps_standsAtFault he hs h, applyEvent_standsStill_of_standsAtFault he hs h⟩)
    hes hs ht
  exact ⟨t, ht, hstands, hsame, fun hcycle => hout (.inr hcycle)⟩

/-- Settles O43, by induction on the sequence (`runEvents_standsStill`): every event keeps the wait and stands still. The flags are
0 before and after, so they too are the same. -/
theorem waitLastsUntilAKeyComes : Obligations.WaitLastsUntilAKeyComes := by
  intro s es hs hes
  obtain ⟨t, ht⟩ := runEvents_next_of_no_reset (fun e he => (hes e he).1) s
  obtain ⟨hwaits, hsame, hout⟩ := runEvents_standsStill (P := WaitsForKey)
    (fun _ _ _ ⟨he, hzero⟩ hs h =>
      ⟨applyEvent_keeps_waitsForKey he hzero hs h, applyEvent_standsStill_of_waitsForKey he hs h⟩)
    hes hs ht
  refine ⟨t, ht, hwaits, fun p hp => ?_, fun hcycle => hout (.inr hcycle)⟩
  by_cases hkeys : p = .keys
  · obtain ⟨-, hbefore⟩ := hs
    obtain ⟨-, hafter⟩ := hwaits
    subst hkeys
    exact hafter.trans hbefore.symm
  · exact hsame p (by simpa [hkeys] using hp)

end Sys2Proof.Machine
end

section
/-! PROOFS. RESET with the default FONT and nothing else gives the state after reset (70_reset_and_hazards.md R250 to R256; 10_state.md
R38): an unlisted cell reads as the default FONT already, so loading it again lists nothing. -/

namespace Sys2Proof.Machine

theorem ResetArgs.ok_defaultFont (cfg : Config) : (⟨defaultFont, [], [], cfg⟩ : ResetArgs).ok :=
  ⟨rfl, Nat.zero_le _, by simp, List.nodup_nil⟩

/-- Below 0x200 the cells are FONT's, and above it those of an empty image (R252, R253). -/
theorem State.memRead_loaded_defaultFont (s : State) (cfg : Config) {a : Nat} (ha : a < 4096) :
    (s.loaded ⟨defaultFont, [], [], cfg⟩).memRead a = background a := by
  have hok := ResetArgs.ok_defaultFont cfg
  by_cases hlow : a < 0x200
  · rw [s.memRead_loaded_low hok hlow (by simp), background]
  · rw [s.memRead_loaded_high hok (by omega) ha (by simp), background_above_font a (by omega), List.getD_nil]

/-- The loaded memory is canonical and reads as memory that lists nothing, so it lists nothing. -/
theorem State.loaded_defaultFont_mem (s : State) (cfg : Config) : (s.loaded ⟨defaultFont, [], [], cfg⟩).mem = [] := by
  refine canonicalMemoryIsUnique _ [] (s.loaded_wf _) rfl fun a ha => ?_
  have hread := s.memRead_loaded_defaultFont cfg ha
  rwa [State.memRead, Nat.mod_eq_of_lt ha] at hread

theorem State.loaded_defaultFont (s : State) (cfg : Config) : s.loaded ⟨defaultFont, [], [], cfg⟩ = s.zeroed cfg := by
  rw [State.loaded_only_mem, State.loaded_defaultFont_mem]
  rfl

/-- Settles O49: these arguments are accepted, and loading them leaves the zeroed state (`State.loaded_defaultFont`), which is the
state after reset with the configuration bound and the host's part kept. -/
theorem resetEventGivesTheResetState : Obligations.ResetEventGivesTheResetState := by
  intro s c
  refine ⟨s.zeroed c, ?_, rfl⟩
  rw [applyEvent_reset_of_ok (ResetArgs.ok_defaultFont c), State.loaded_defaultFont]

end Sys2Proof.Machine
end
